-- ==== Sys2Proof/Word.lean ====
section
/-!
DEFINITION. The word types of the Ukwara 2830: the fields of requests and responses (one, two or four bytes, spec 09
section 9.8), sequence numbers and times, which wrap modulo 2^32 (spec 00 sections 7.3 and 7.4).
-/

namespace Sys2Proof

/-- A one-byte field. -/
abbrev Byte := BitVec 8

/-- A two-byte field. -/
abbrev Half := BitVec 16

/-- A four-byte field. -/
abbrev Word := BitVec 32

/-- A sequence number of a stroke record; it wraps modulo 2^32 (spec 00 section 7.3). -/
abbrev Seq := BitVec 32

/-- A value of the timestamp counter in microseconds; it wraps modulo 2^32 (spec 00 section 7.4). -/
abbrev Time := BitVec 32

/-- The distance from `a` to `b`, `(b - a) mod 2^32` (spec 00 section 7.3). -/
def seqDist (a b : Seq) : Nat := (b - a).toNat

end Sys2Proof
end

