-- ==== Sys2Proof/Config.lean ====
section
/-!
DEFINITION. What the spec leaves open as a value. Nothing in the model or in a statement rests on what these constants are.
-/

namespace Sys2Proof.Config

/-- The pressure for a raw travel that no segment of a curve holds. FREE VALUE (log 13): the spec states no result there,
because a curve an enabled kind names is valid in every frame (R23, R88), so no run reaches it. The arguments are the knots
of the curve, as pairs of input and output, and the travel. -/
opaque offCurvePressure : List (Nat × Nat) → Nat → Nat

/-- Whether an event that falls together with an append of one event of several is taken before it. FREE VALUE (log 16): "may be
taken in either order" (R109, R128). The argument numbers the choices, which the state counts. -/
opaque takenBefore : Nat → Bool

end Sys2Proof.Config
end

