-- ==== Sys2Proof/Syntax.lean ====
section
/-!
DEFINITION. The commands of the block: one constructor for each row of spec/opcode_table.json, with the row's operands.
A request carries its port and the parameter fields of spec 09 table 9.8.1, as received and not yet judged.
-/

namespace Sys2Proof

/-- A client port (spec 00 section 5). -/
inductive PortId
  | p0
  | p1
deriving DecidableEq, Repr

/-- "The other port" is the one that is not p (spec 00 section 5). -/
def PortId.other : PortId → PortId
  | .p0 => .p1
  | .p1 => .p0

/-- The two edges of SCLK (R147). -/
inductive ClockEdge
  | rise
  | fall
deriving DecidableEq, Repr

/-- The commands the block takes: requests from a port, and events. -/
inductive Instr
  -- requests (R148), each complete at the moment the command is taken
  | status (p : PortId)
  | read (p : PortId) (n : Byte)
  | mark (p : PortId)
  | rewind (p : PortId)
  | cursorSetup (p : PortId) (mode : Byte) (ready margin : Half)
  | portSetup (p : PortId) (format order lapse : Byte) (enable : Half)
  | ack (p : PortId) (conds : Half)
  | hold (p : PortId)
  | release (p : PortId)
  | run (p : PortId)
  | stop (p : PortId)
  | flush (p : PortId)
  | portReset (p : PortId)
  | configWrite (p : PortId) (item : Byte) (value : Half)
  | configRead (p : PortId) (item : Byte)
  | curveBegin (p : PortId) (curve count : Byte)
  | curveKnot (p : PortId) (curve : Byte) (input output : Half)
  | curveRead (p : PortId) (curve : Byte)
  | checkReport (p : PortId)
  | capture (p : PortId) (trigger : Byte) (first : Word) (second : Half) (drive : Byte)
  | captureStatus (p : PortId)
  | captureRead (p : PortId) (entry n fromStart : Byte)
  | captureRelease (p : PortId) (entry : Byte)
  | badCommand (p : PortId) (code : Byte)
  -- full reset, with the levels of the input pins at its end (true is high)
  | fullReset (tile1 tile0 cs0 cs1 quiet : Bool)
  -- framing and time at a port
  | csFall (p : PortId)
  | csRise (p : PortId)
  | transactionAbandoned (p : PortId)
  | lapseTimerExpiry (p : PortId)
  -- the scan
  | frameStart
  | readingEnd (amplitude : BitVec 16) (phase : BitVec 12)
  | guardExpiry
  | coilSensingEnd (level : BitVec 10)
  | quietRise
  | quietFall
  | quietTimerExpiry
  -- captures
  | tsyncFall
  | tsyncPulseExpiry
  | captureCopy (entry : Fin 4)
  -- the places of a response and the clock of a port
  | readPlaceBegin (p : PortId)
  | readRecordComplete (p : PortId)
  | captureReadPlaceBegin (p : PortId)
  | captureReadRecordComplete (p : PortId)
  | sclkEdge (p : PortId) (edge : ClockEdge) (mosi : Bool)
  -- the timestamp counter
  | timestampCounterTick
deriving DecidableEq, Repr

end Sys2Proof
end

