-- ==== Sys2Proof/WellFormed.lean ====
section
/-!
DEFINITION. Which commands can arise: the operands that a rule of the spec rules out.
-/

namespace Sys2Proof

/-- The command codes of spec 09 table 9.8.1. -/
def commandCodes : List Byte :=
  [0x01, 0x02, 0x03, 0x04, 0x05, 0x06, 0x07, 0x10, 0x11, 0x12, 0x13, 0x14, 0x15, 0x20, 0x21, 0x22, 0x23, 0x24, 0x25,
   0x30, 0x31, 0x32, 0x33]

/-- A command is well formed when its operands can arise: BAD_COMMAND is "a command code that names no command" (R148), and
a reading whose amplitude is 0 gives phase 0 (R3). The other operands range over whole fields, judged by the request itself. -/
def Instr.wellFormed : Instr → Bool
  | .badCommand _ code => !commandCodes.contains code
  | .readingEnd amplitude phase => amplitude != 0 || phase == 0
  | .status _ | .read _ _ | .mark _ | .rewind _ | .cursorSetup _ _ _ _ | .portSetup _ _ _ _ _ | .ack _ _ | .hold _ => true
  | .release _ | .run _ | .stop _ | .flush _ | .portReset _ | .configWrite _ _ _ | .configRead _ _ | .curveBegin _ _ _ => true
  | .curveKnot _ _ _ _ | .curveRead _ _ | .checkReport _ | .capture _ _ _ _ _ | .captureStatus _ => true
  | .captureRead _ _ _ _ | .captureRelease _ _ | .fullReset _ _ _ _ _ | .csFall _ | .csRise _ => true
  | .transactionAbandoned _ | .lapseTimerExpiry _ | .frameStart | .guardExpiry | .coilSensingEnd _ => true
  | .quietRise | .quietFall | .quietTimerExpiry | .tsyncFall | .tsyncPulseExpiry | .captureCopy _ => true
  | .readPlaceBegin _ | .readRecordComplete _ | .captureReadPlaceBegin _ | .captureReadRecordComplete _ => true
  | .sclkEdge _ _ _ | .timestampCounterTick => true

end Sys2Proof
end

