-- ==== Sys2Proof/Decode.lean ====
section
/-!
DEFINITION. The bytes of requests: how many parameter bytes a command code takes, the request that received bytes spell, and
the bytes of a request (spec 09 sections 9.1, 9.7 and table 9.8.1). The rows of spec/opcode_table.json carry no bits, so no
word spells a command of the table (`decodeTableWord`, log 14).
-/

namespace Sys2Proof

/-- The order of the bytes of a two- or four-byte field (R152, R159). -/
inductive ByteOrder
  | little
  | big
deriving DecidableEq, Repr

/-- A two-byte field from its bytes in the order sent (R159). -/
def half (order : ByteOrder) (b0 b1 : Byte) : Half :=
  match order with
  | .little => b1 ++ b0
  | .big => b0 ++ b1

/-- A four-byte field from its bytes in the order sent (R159). -/
def word (order : ByteOrder) (b0 b1 b2 b3 : Byte) : Word :=
  match order with
  | .little => (b3 ++ b2) ++ (b1 ++ b0)
  | .big => (b0 ++ b1) ++ (b2 ++ b3)

/-- The bytes of a two-byte field in the order sent (R159). -/
def halfBytes (order : ByteOrder) (v : Half) : List Byte :=
  let low := v.extractLsb' 0 8
  let high := v.extractLsb' 8 8
  match order with
  | .little => [low, high]
  | .big => [high, low]

/-- The bytes of a four-byte field in the order sent (R159). -/
def wordBytes (order : ByteOrder) (v : Word) : List Byte :=
  let b0 := v.extractLsb' 0 8
  let b1 := v.extractLsb' 8 8
  let b2 := v.extractLsb' 16 8
  let b3 := v.extractLsb' 24 8
  match order with
  | .little => [b0, b1, b2, b3]
  | .big => [b3, b2, b1, b0]

/-- How many parameter bytes follow the command code (table 9.8.1). A code that names no command is complete at byte 0
(R148). -/
def paramCount (code : Byte) : Nat :=
  match code.toNat with
  | 0x02 => 1
  | 0x05 => 5
  | 0x06 => 5
  | 0x07 => 2
  | 0x20 => 3
  | 0x21 => 1
  | 0x22 => 2
  | 0x23 => 5
  | 0x24 => 1
  | 0x30 => 8
  | 0x32 => 3
  | 0x33 => 1
  | _ => 0

/-- The request that a command code and its parameter bytes spell on port `p` (table 9.8.1). -/
def decodeRequest (order : ByteOrder) (p : PortId) (code : Byte) (params : List Byte) : Option Instr :=
  match code.toNat, params with
  | 0x01, [] => some (.status p)
  | 0x02, [n] => some (.read p n)
  | 0x03, [] => some (.mark p)
  | 0x04, [] => some (.rewind p)
  | 0x05, [m, r0, r1, f0, f1] => some (.cursorSetup p m (half order r0 r1) (half order f0 f1))
  | 0x06, [f, o, l, e0, e1] => some (.portSetup p f o l (half order e0 e1))
  | 0x07, [c0, c1] => some (.ack p (half order c0 c1))
  | 0x10, [] => some (.hold p)
  | 0x11, [] => some (.release p)
  | 0x12, [] => some (.run p)
  | 0x13, [] => some (.stop p)
  | 0x14, [] => some (.flush p)
  | 0x15, [] => some (.portReset p)
  | 0x20, [i, v0, v1] => some (.configWrite p i (half order v0 v1))
  | 0x21, [i] => some (.configRead p i)
  | 0x22, [c, n] => some (.curveBegin p c n)
  | 0x23, [c, i0, i1, o0, o1] => some (.curveKnot p c (half order i0 i1) (half order o0 o1))
  | 0x24, [c] => some (.curveRead p c)
  | 0x25, [] => some (.checkReport p)
  | 0x30, [t, a0, a1, a2, a3, b0, b1, d] => some (.capture p t (word order a0 a1 a2 a3) (half order b0 b1) d)
  | 0x31, [] => some (.captureStatus p)
  | 0x32, [e, n, s] => some (.captureRead p e n s)
  | 0x33, [e] => some (.captureRelease p e)
  | _, [] => if commandCodes.contains code then none else some (.badCommand p code)
  | _, _ => none

/-- The bytes of a request as a master sends them: the command code, then the parameter bytes (table 9.8.1). `none` for an
event, which is no request. -/
def encodeRequest (order : ByteOrder) : Instr → Option (List Byte)
  | .status _ => some [0x01]
  | .read _ n => some [0x02, n]
  | .mark _ => some [0x03]
  | .rewind _ => some [0x04]
  | .cursorSetup _ m r f => some ([0x05, m] ++ halfBytes order r ++ halfBytes order f)
  | .portSetup _ f o l e => some ([0x06, f, o, l] ++ halfBytes order e)
  | .ack _ c => some ([0x07] ++ halfBytes order c)
  | .hold _ => some [0x10]
  | .release _ => some [0x11]
  | .run _ => some [0x12]
  | .stop _ => some [0x13]
  | .flush _ => some [0x14]
  | .portReset _ => some [0x15]
  | .configWrite _ i v => some ([0x20, i] ++ halfBytes order v)
  | .configRead _ i => some [0x21, i]
  | .curveBegin _ c n => some [0x22, c, n]
  | .curveKnot _ c i o => some ([0x23, c] ++ halfBytes order i ++ halfBytes order o)
  | .curveRead _ c => some [0x24, c]
  | .checkReport _ => some [0x25]
  | .capture _ t a b d => some ([0x30, t] ++ wordBytes order a ++ halfBytes order b ++ [d])
  | .captureStatus _ => some [0x31]
  | .captureRead _ e n s => some [0x32, e, n, s]
  | .captureRelease _ e => some [0x33, e]
  | .badCommand _ c => some [c]
  | .fullReset _ _ _ _ _ | .csFall _ | .csRise _ | .transactionAbandoned _ | .lapseTimerExpiry _ | .frameStart => none
  | .readingEnd _ _ | .guardExpiry | .coilSensingEnd _ | .quietRise | .quietFall | .quietTimerExpiry => none
  | .tsyncFall | .tsyncPulseExpiry | .captureCopy _ | .readPlaceBegin _ | .readRecordComplete _ => none
  | .captureReadPlaceBegin _ | .captureReadRecordComplete _ | .sclkEdge _ _ _ | .timestampCounterTick => none

/-- The port a request comes from; `none` for an event. -/
def Instr.requestPort : Instr → Option PortId
  | .status p | .read p _ | .mark p | .rewind p | .cursorSetup p _ _ _ | .portSetup p _ _ _ _ | .ack p _ | .hold p => some p
  | .release p | .run p | .stop p | .flush p | .portReset p | .configWrite p _ _ | .configRead p _ | .curveBegin p _ _ => some p
  | .curveKnot p _ _ _ | .curveRead p _ | .checkReport p | .capture p _ _ _ _ | .captureStatus p => some p
  | .captureRead p _ _ _ | .captureRelease p _ | .badCommand p _ => some p
  | .fullReset _ _ _ _ _ | .csFall _ | .csRise _ | .transactionAbandoned _ | .lapseTimerExpiry _ | .frameStart => none
  | .readingEnd _ _ | .guardExpiry | .coilSensingEnd _ | .quietRise | .quietFall | .quietTimerExpiry => none
  | .tsyncFall | .tsyncPulseExpiry | .captureCopy _ | .readPlaceBegin _ | .readRecordComplete _ => none
  | .captureReadPlaceBegin _ | .captureReadRecordComplete _ | .sclkEdge _ _ _ | .timestampCounterTick => none

/-- The command a word of `nbits` bits spells by the bits of spec/opcode_table.json: none, since no row has bits (log 14). -/
def decodeTableWord (_nbits _w : Nat) : Option Instr := none

end Sys2Proof
end

