-- ==== Sys2Proof/Machine/State.lean ====
section
/-!
DEFINITION. The state of the part, as plain data: what each block of spec 00 section 4 owns, and the queue of waiting
commands. INVENTORY.md lists every field with the rule that names it and its reset value.
-/

namespace Sys2Proof.Machine

/-! ## Names -/

/-- The tracking slots S0 and S1 (R57). -/
inductive SlotId
  | s0
  | s1
deriving DecidableEq, Repr

/-- The two axes of the array (R1). -/
inductive Axis
  | x
  | y
deriving DecidableEq, Repr

/-- A frequency channel F0..F7 (R6). -/
abbrev Chan := Fin 8

/-! ## Configuration items (spec 09 table 9.8.3) -/

/-- The array check mode (R9). -/
inductive CheckMode
  | full
  | reuse
deriving DecidableEq, Repr

/-- Multiplier M and divider N of one channel (R6). -/
structure ChanItems where
  m : Nat
  n : Nat
deriving DecidableEq, Repr

/-- One entry of the tool kind table (R17). -/
structure Kind where
  enabled : Bool
  tip : Chan
  eraser : Option Chan
  collar : Chan
  spacing : Nat
  curve : Fin 4
  phaseZero : Nat
  phaseSpan : Nat
  tipCorr : Nat
  collarMin : Nat
deriving DecidableEq, Repr

/-- Every configuration item of the part (R1, R5, R6, R9, R17, R48, R58, R99). -/
structure Items where
  xCoils : Nat
  yCoils : Nat
  pitch : Nat
  dwell : Nat
  checkMode : CheckMode
  maxDefects : Nat
  chans : Vector ChanItems 8
  framePeriod : Nat
  quietGating : Bool
  quietTimeout : Nat
  enterLevel : Nat
  leaveLevel : Nat
  leaveCount : Nat
  contactOn : Nat
  contactOff : Nat
  ringBase : Nat
  ringBanks : Nat
  kinds : Vector Kind 4
deriving DecidableEq, Repr

/-! ## Curves (R22) -/

/-- One (input, output) point of a curve. -/
structure Knot where
  input : Nat
  output : Nat
deriving DecidableEq, Repr

/-- A pressure curve by its state (R22). The load pointer is the number of knots stored; the load owner exists in LOADING. -/
inductive Curve
  | empty
  | loading (count : Nat) (knots : List Knot) (owner : Option PortId)
  | loaded (knots : List Knot)
deriving DecidableEq, Repr

/-! ## Defect map and check report (R8, R44) -/

/-- Why a coil is defective (R8): OPEN or SHORT. -/
inductive DefectReason
  | openLoop
  | shortLoop
deriving DecidableEq, Repr

/-- An entry of a defect list (R8). -/
structure Defect where
  coil : Nat
  reason : DefectReason
deriving DecidableEq, Repr

/-- The defect list and unlisted count of one axis (R8). -/
structure AxisDefects where
  listed : List Defect
  unlisted : Nat
deriving DecidableEq, Repr

/-- The defect map (R8); `valid` is its validity state. -/
structure DefectMap where
  valid : Bool
  x : AxisDefects
  y : AxisDefects
deriving DecidableEq, Repr

/-- The finding kinds of spec 03 section 3.2. -/
inductive FindingKind
  | channelRange
  | channelClash
  | kindChannelReused
  | channelShared
  | curveUnloaded
  | curveOrder
  | levelOrder
  | contactOrder
  | frameBudget
  | coilOpen
  | coilShort
  | adjacentDefects
  | tooManyDefects
deriving DecidableEq, Repr

/-- A finding of the check (spec 03 section 3.2); its severity follows from its kind. -/
structure Finding where
  kind : FindingKind
  axis : Option Axis
  index : Option Nat
  index2 : Option Nat
deriving DecidableEq, Repr

/-- The outcome of a check (R44). -/
inductive CheckOutcome
  | none
  | running
  | passed
  | failed
  | aborted
deriving DecidableEq, Repr

/-- The check report (R44). -/
structure Report where
  outcome : CheckOutcome
  findings : List Finding
  truncated : Bool
deriving DecidableEq, Repr

/-! ## Tool slots (R57) -/

/-- The end of a tool in use (R57). -/
inductive ToolEnd
  | tip
  | eraser
deriving DecidableEq, Repr

/-- The side buttons (R69). -/
inductive Buttons
  | none
  | lower
  | upper
  | both
deriving DecidableEq, Repr

/-- The flags of a record (R97, R102). -/
structure Flags where
  edge : Bool := false
  fast : Bool := false
  defect : Bool := false
  held : Bool := false
  tiltSat : Bool := false
  tiltAbsent : Bool := false
  clampedPos : Bool := false
  clampedPressure : Bool := false
deriving DecidableEq, Repr

/-- The values a last good sample holds (R57). -/
structure SampleVals where
  x : Nat
  y : Nat
  pressure : Nat
  travel : Nat
  tiltX : Int
  tiltY : Int
  tipAmp : Nat
  colAmp : Nat
  colDx : Int
  colDy : Int
  flags : Flags
deriving DecidableEq, Repr

/-- The tool sample the solver hands to a slot (R76). -/
structure Sample where
  vals : SampleVals
  endXPeak : Nat
  endYPeak : Nat
  colXPeak : Nat
  colYPeak : Nat
  colPhase : Nat
deriving DecidableEq, Repr

/-- The fields of a TRACKING slot (R57). Windows are held as their centre coils (R62). -/
structure Track where
  kind : Fin 4
  toolEnd : ToolEnd
  endX : Nat
  endY : Nat
  colX : Nat
  colY : Nat
  miss : Nat
  contact : Bool
  buttons : Buttons
  first : Bool
  lastGood : Option SampleVals
deriving DecidableEq, Repr

/-- A slot (R57). A FREE slot holds nothing: miss count 0, contact off, buttons NONE, first-frame flag clear. -/
inductive Slot
  | free
  | tracking (t : Track)
deriving DecidableEq, Repr

/-! ## Stroke records (R102) -/

/-- The kinds of record a slot writes (R68). -/
inductive StrokeKind
  | enter
  | sample
  | leave
deriving DecidableEq, Repr

/-- Why frames stopped (R55, R72). -/
inductive BreakCause
  | stopped
  | halted
deriving DecidableEq, Repr

/-- The fields of a record that are not in a BREAK (R102). -/
structure StrokeFields where
  slot : SlotId
  kind : Fin 4
  toolEnd : ToolEnd
  x : Nat
  y : Nat
  pressure : Nat
  tiltX : Int
  tiltY : Int
  contact : Bool
  buttons : Buttons
  flags : Flags
  tipAmp : Nat
  colAmp : Nat
  colDx : Int
  colDy : Int
  travel : Nat
deriving DecidableEq, Repr

/-- What a composer writes into a record (R68, R72). -/
inductive RecordBody
  | stroke (kind : StrokeKind) (f : StrokeFields)
  | brk (cause : BreakCause)
deriving DecidableEq, Repr

/-- A stroke record as the ring holds it (R102, R103). -/
structure Record where
  seq : Seq
  tile : BitVec 2
  time : Time
  body : RecordBody
deriving DecidableEq, Repr

/-- The written record slots of the eight SRAM banks (R98): address bank * 512 + slot, addresses strictly rising. -/
abbrev Store := List (Nat × Record)

/-- The ring's sequence numbers and write position (R101). -/
structure Ring where
  w : Seq
  o : Seq
  writePos : Nat
deriving DecidableEq, Repr

/-! ## The scan engine (R33, R49 to R54) -/

/-- What a reading hands to the engine (R3). -/
structure Reading where
  amp : Nat
  phase : Nat
deriving DecidableEq, Repr

/-- The four windows of a slot, in the order they are read (R50). -/
inductive WindowId
  | endX
  | endY
  | colX
  | colY
deriving DecidableEq, Repr

/-- A tracking reading of a frame: its slot and window, and the three parameters of R3. -/
structure TrackRead where
  slot : SlotId
  window : WindowId
  chan : Chan
  axis : Axis
  coil : Nat
deriving DecidableEq, Repr

/-- The excitation path as frames use it (R3, R54): a reading that waits for QUIET, since when its quiet timer runs, or a
reading in progress with the microseconds of its dwell that are left. -/
inductive Path
  | waiting (since : Time)
  | reading (left : Nat)
deriving DecidableEq, Repr

/-- The gating state of the frame in flight (R54). -/
inductive Gating
  | active
  | suspended
deriving DecidableEq, Repr

/-- The stage of the frame in flight (R50 to R52). In tracking, `cur` is the reading waiting or in progress, `rest` those
after it and `got` those taken; in searching, `budget` counts the readings the frame may still take, the present one too. -/
inductive Stage
  | tracking (cur : TrackRead) (rest : List TrackRead) (got : List (TrackRead × Reading)) (path : Path)
  | guarding (left : Nat)
  | searching (budget : Nat) (path : Path)
deriving DecidableEq, Repr

/-- The frame in flight; `t` is the number of slots TRACKING at its start (R50). -/
structure Frame where
  t : Nat
  gating : Gating
  stage : Stage
deriving DecidableEq, Repr

/-- A search reading kept by a sweep (R52). -/
structure SweepReading where
  chan : Chan
  axis : Axis
  coil : Nat
  reading : Reading
deriving DecidableEq, Repr

/-- The search cursor: the place of its channel in the search list, the axis and the coil (R52). -/
structure SearchCursor where
  index : Nat
  axis : Axis
  coil : Nat
deriving DecidableEq, Repr

/-- A sweep in progress (R53). -/
structure Sweep where
  list : List Chan
  cursor : SearchCursor
  got : List SweepReading
deriving DecidableEq, Repr

/-- What the engine holds in SCANNING: the start time of the current or last frame (R49), the frame in flight and the sweep. -/
structure Run where
  start : Time
  frame : Option Frame
  sweep : Option Sweep
deriving DecidableEq, Repr

/-- A FULL sensing pass in flight (R10, R11): the coil being sensed and the time left of its 50 us, whether the coil numbered
one lower was defective, whether TOO_MANY_DEFECTS was made on this axis, and whether the check made a FAIL finding (R43). -/
structure SensePass where
  axis : Axis
  coil : Nat
  left : Nat
  prevBad : Bool
  tooMany : Bool
  failed : Bool
deriving DecidableEq, Repr

/-- The engine with what it holds in each state (R33). A check that is in flight is always a FULL sensing pass (R40). -/
inductive Engine
  | halted
  | checking (pass : SensePass)
  | idle
  | scanning (run : Run)
deriving DecidableEq, Repr

/-- A set of ports (R33). -/
structure PortSet where
  p0 : Bool
  p1 : Bool
deriving DecidableEq, Repr

/-! ## Captures (R129) -/

/-- The kinds of capture (R129). -/
inductive Trigger
  | immediate
  | sync
  | contact
  | absolute
deriving DecidableEq, Repr

/-- Why a FAILED entry failed (R129). -/
inductive FailReason
  | overtaken
  | flushed
deriving DecidableEq, Repr

/-- The state of an entry that is not EMPTY (R129). -/
inductive CapStage
  | armed
  | filling
  | ready
  | failed (reason : FailReason)
deriving DecidableEq, Repr

/-- The window of an entry, fixed at its trigger (R133, R137). -/
structure Window where
  start : Seq
  target : Nat
  truncated : Bool
deriving DecidableEq, Repr

/-- A capture entry that is not EMPTY (R129). `reach` is (B, A), absent for ABSOLUTE; `window` is absent until the trigger. -/
structure Held where
  stage : CapStage
  owner : PortId
  trigger : Trigger
  reach : Option (Nat × Nat)
  window : Option Window
  copied : Nat
  readPos : Nat
  bank : Fin 8
deriving DecidableEq, Repr

/-! ## Client ports (R112, R147 to R154, R160) -/

/-- The reading mode of a cursor (R112). -/
inductive CursorMode
  | sequential
  | latest
deriving DecidableEq, Repr

/-- The cursor of a port (R112). `moved` says that a lap or a flush has carried next forward since the sending of the last
place of a SEQUENTIAL READ began (R117; log 17). -/
structure Cursor where
  next : Seq
  mode : CursorMode
  mark : Option Seq
  ready : Nat
  margin : Nat
  skipped : Nat
  moved : Bool := false
deriving DecidableEq, Repr

/-- The nine latched conditions (R160). -/
inductive Cond
  | lapped
  | prox
  | capture
  | engine
  | check
  | quiet
  | ring
  | lapse
  | peer
deriving DecidableEq, Repr

/-- The latched conditions pending on a port (R160). -/
structure Latched where
  lapped : Bool := false
  prox : Bool := false
  capture : Bool := false
  engine : Bool := false
  check : Bool := false
  quiet : Bool := false
  ring : Bool := false
  lapse : Bool := false
  peer : Bool := false
deriving DecidableEq, Repr

/-- A set of the eleven attention conditions: the two level conditions and the latched ones (R159, R160). -/
structure CondSet where
  ready : Bool := false
  nearFull : Bool := false
  latched : Latched := {}
deriving DecidableEq, Repr

/-- The record formats (R153). -/
inductive Format
  | basic
  | timed
  | full
deriving DecidableEq, Repr

/-- The settings of a port (R152); `lapse` is in units of 10 ms, 0 for off. -/
structure Settings where
  format : Format
  order : ByteOrder
  lapse : Nat
  enable : CondSet
deriving DecidableEq, Repr

/-- The result codes (R158). -/
inductive ResultCode
  | ok
  | clamped
  | partialDone
  | refusedState
  | notHolding
  | notOwner
  | outOfRange
  | noMark
  | noStore
  | notReady
  | curveFull
  | capturesPresent
  | badItem
  | badValue
  | badCommand
deriving DecidableEq, Repr

/-- A field of a response, by its size (R159). -/
inductive Field
  | u8 (v : Byte)
  | u16 (v : Half)
  | u32 (v : Word)
deriving DecidableEq, Repr

/-- What a response fixes at completion (R149): the result code, the fields after it and, for a LATEST READ, the record
places (R120). -/
structure Reply where
  result : ResultCode
  fields : List Field
  records : List Record := []
deriving DecidableEq, Repr

/-- What a record place of a response sends: a copy of a record, or a VOID filler with a sequence (R117, R118, R143). -/
inductive Place
  | stroke (r : Record)
  | void (seq : Seq)
deriving DecidableEq, Repr

/-- The record places a response fills while it is sent (R149): none; those of a SEQUENTIAL READ (R117); those of a CAPTURE
READ (R143), where `live` says that the entry has not been released and `first` is the sequence of the first place. `k` is
the header's count, `done` the places completed and `cur` the place being sent. -/
inductive Xfer
  | none
  | read (k done : Nat) (cur : Option Place)
  | capture (entry : Fin 4) (live : Bool) (first : Seq) (k done : Nat) (cur : Option Place)
deriving DecidableEq, Repr

/-- Bytes of a request received so far: whole bytes in order, and the bits of the byte being received (R147). -/
structure Rx where
  bytes : List Byte := []
  nbits : Nat := 0
  acc : Byte := 0
deriving DecidableEq, Repr

/-- A response being clocked out: the settings that govern it (R149) and the number of its bits put on MISO. -/
structure Resp where
  reply : Reply
  format : Format
  order : ByteOrder
  outBits : Nat
  xfer : Xfer
deriving DecidableEq, Repr

/-- The framing state of a port (R147); in a transaction, `left` is what is left of the 2 ms of R151. -/
inductive Framing
  | idle
  | request (left : Nat) (rx : Rx)
  | response (left : Nat) (resp : Resp)
  | discarding
deriving DecidableEq, Repr

/-- One client port with its cursor and its attention block. -/
structure Port where
  framing : Framing
  miso : Option Bool
  settings : Settings
  lapseTimer : Option Nat
  latched : Latched
  cursor : Cursor
deriving DecidableEq, Repr

/-! ## The state -/

/-- The state of the part; with it the queue of waiting commands (log 1) and the number of free choices that have been made
(log 16), which are the model's own. -/
structure State where
  items : Items
  curves : Vector Curve 4
  map : DefectMap
  report : Report
  engine : Engine
  hold : PortSet
  run : PortSet
  slot0 : Slot
  slot1 : Slot
  ring : Ring
  store : Store
  tile : BitVec 2
  entries : Vector (Option Held) 4
  pulse : Option Nat
  quiet : Bool
  counter : Time
  port0 : Port
  port1 : Port
  pending : List Instr
  choices : Nat
deriving DecidableEq, Repr

/-- No command of the block stops it (spec 09 R158: a refused request is answered and changes nothing), so there is no fault. -/
inductive Fault
deriving DecidableEq, Repr

/-- Why a command has no meaning. -/
inductive Refusal
  /-- Raised only by an arm of `exec` for a command without a meaning; no arm raises it now. Safe: the model stops. -/
  | notModelled (mnemonic : String)
deriving DecidableEq, Repr

/-! ## Full reset (spec 00 section 7.7) -/

/-- K0 after full reset (R17). -/
def Kind.reset0 : Kind :=
  { enabled := true, tip := 0, eraser := some 1, collar := 2, spacing := 1500, curve := 0, phaseZero := 400,
    phaseSpan := 2400, tipCorr := 64, collarMin := 300 }

/-- K1..K3 after full reset (R17). -/
def Kind.resetOther : Kind := { Kind.reset0 with enabled := false, eraser := none }

/-- The items after full reset (table 9.8.3). -/
def Items.reset : Items :=
  { xCoils := 176, yCoils := 100, pitch := 400, dwell := 20, checkMode := .full, maxDefects := 2,
    chans := #v[⟨480, 100⟩, ⟨544, 100⟩, ⟨608, 100⟩, ⟨672, 100⟩, ⟨736, 100⟩, ⟨800, 100⟩, ⟨864, 100⟩, ⟨928, 100⟩],
    framePeriod := 5000, quietGating := false, quietTimeout := 500,
    enterLevel := 2000, leaveLevel := 1200, leaveCount := 3, contactOn := 80, contactOff := 40,
    ringBase := 0, ringBanks := 6,
    kinds := #v[Kind.reset0, Kind.resetOther, Kind.resetOther, Kind.resetOther] }

/-- The linear curve C0 holds after full reset (R22). -/
def Curve.linear : Curve := .loaded [⟨0, 0⟩, ⟨4095, 8191⟩]

/-- An empty list of one axis (R8). -/
def AxisDefects.none : AxisDefects := { listed := [], unlisted := 0 }

/-- The map INVALID and empty (R8). -/
def DefectMap.invalid : DefectMap := { valid := false, x := .none, y := .none }

/-- The report after full reset (R44). -/
def Report.reset : Report := { outcome := .none, findings := [], truncated := false }

/-- The empty set of ports. -/
def PortSet.empty : PortSet := { p0 := false, p1 := false }

/-- A cursor after a reset that sets its position to `next` (R112). -/
def Cursor.resetAt (next : Seq) : Cursor :=
  { next := next, mode := .sequential, mark := none, ready := 1, margin := 256, skipped := 0 }

/-- Port settings after full reset and after PORT RESET (R152). -/
def Settings.reset : Settings := { format := .basic, order := .little, lapse := 0, enable := {} }

/-- A port after full reset: IDLE when its CS is high, DISCARDING when it is low (R147). -/
def Port.reset (csHigh : Bool) : Port :=
  { framing := if csHigh then .idle else .discarding
    miso := if csHigh then none else some false
    settings := Settings.reset, lapseTimer := none, latched := {}, cursor := Cursor.resetAt 0 }

/-- The state after a full reset that ends with these levels on the tile straps, the two CS pins and QUIET (R103, R147). -/
def State.resetWith (tile1 tile0 cs0 cs1 quiet : Bool) : State :=
  { items := Items.reset
    curves := #v[Curve.linear, .empty, .empty, .empty]
    map := DefectMap.invalid
    report := Report.reset
    engine := .halted
    hold := PortSet.empty
    run := PortSet.empty
    slot0 := .free
    slot1 := .free
    ring := { w := 0, o := 0, writePos := 0 }
    store := []
    tile := BitVec.ofBool tile1 ++ BitVec.ofBool tile0
    entries := #v[none, none, none, none]
    pulse := none
    quiet := quiet
    counter := 0
    port0 := Port.reset cs0
    port1 := Port.reset cs1
    pending := []
    choices := 0 }

/-- The machine right after full reset. The pins are inputs, whose levels the spec does not fix: tile 0, both CS high and
QUIET low here (DESIGN CHOICE, log 7). -/
def State.reset : State := State.resetWith false false true true false

end Sys2Proof.Machine
end

