-- ==== Sys2Proof/Machine/Ops.lean ====
section
/-!
DEFINITION. The named operations over the state: ports, slots, capture entries, the SRAM banks, raising attention conditions,
and the ring with what each append and flush does to the cursors and the captures (spec 06, R114, R140).
-/

namespace Sys2Proof.Machine

/-! ## Durations in microseconds -/

/-- One coil sensing occupies the excitation path for 50 us (R10). -/
def senseTime : Nat := 50

/-- The guard of 100 us (R51). -/
def guardTime : Nat := 100

/-- The pulse timer of 4 us (R135). -/
def pulseTime : Nat := 4

/-- The 2 ms after which a transaction without SCLK edges is abandoned (R151). -/
def transactionTime : Nat := 2000

/-- The lapse timeout is in units of 10 ms (R152, R154). -/
def lapseUnit : Nat := 10000

/-- Record slots of one bank (R98). -/
def bankSlots : Nat := 512

/-! ## Ports, slots and entries -/

/-- Port `p`. -/
def State.port (s : State) : PortId → Port
  | .p0 => s.port0
  | .p1 => s.port1

/-- Port `p` replaced. -/
def State.setPort (s : State) (p : PortId) (x : Port) : State :=
  match p with
  | .p0 => { s with port0 := x }
  | .p1 => { s with port1 := x }

/-- Port `p` changed by `f`. -/
def State.updPort (s : State) (p : PortId) (f : Port → Port) : State := s.setPort p (f (s.port p))

/-- The cursor of port `p` replaced. -/
def State.setCursor (s : State) (p : PortId) (c : Cursor) : State := s.updPort p fun q => { q with cursor := c }

/-- Slot `i`. -/
def State.slot (s : State) : SlotId → Slot
  | .s0 => s.slot0
  | .s1 => s.slot1

/-- Slot `i` replaced. -/
def State.setSlot (s : State) (i : SlotId) (x : Slot) : State :=
  match i with
  | .s0 => { s with slot0 := x }
  | .s1 => { s with slot1 := x }

/-- Capture entry `e`; `none` is EMPTY. -/
def State.entry (s : State) (e : Fin 4) : Option Held := s.entries[e]

/-- Capture entry `e` replaced. -/
def State.setEntry (s : State) (e : Fin 4) (x : Option Held) : State := { s with entries := s.entries.set e x }

/-- Something done for E0..E3 in turn. -/
def State.forEntries (s : State) (f : Fin 4 → State → State) : State := f 3 (f 2 (f 1 (f 0 s)))

/-- Something done for both ports. -/
def State.forPorts (s : State) (f : PortId → State → State) : State := f .p1 (f .p0 s)

/-- Whether `p` is in the set. -/
def PortSet.has (a : PortSet) : PortId → Bool
  | .p0 => a.p0
  | .p1 => a.p1

/-- The set with `p` in it. -/
def PortSet.insert (a : PortSet) : PortId → PortSet
  | .p0 => { a with p0 := true }
  | .p1 => { a with p1 := true }

/-- The set without `p`. -/
def PortSet.erase (a : PortSet) : PortId → PortSet
  | .p0 => { a with p0 := false }
  | .p1 => { a with p1 := false }

/-- Whether the set is empty. -/
def PortSet.isEmpty (a : PortSet) : Bool := !a.p0 && !a.p1

/-! ## Raising conditions (R160) -/

/-- A latched condition becomes pending; one already pending stays so. -/
def Latched.raise (l : Latched) : Cond → Latched
  | .lapped => { l with lapped := true }
  | .prox => { l with prox := true }
  | .capture => { l with capture := true }
  | .engine => { l with engine := true }
  | .check => { l with check := true }
  | .quiet => { l with quiet := true }
  | .ring => { l with ring := true }
  | .lapse => { l with lapse := true }
  | .peer => { l with peer := true }

/-- Condition `c` is set pending on port `p`. -/
def State.raise (s : State) (p : PortId) (c : Cond) : State :=
  s.updPort p fun q => { q with latched := q.latched.raise c }

/-- Condition `c` is set pending on both ports. -/
def State.raiseBoth (s : State) (c : Cond) : State := (s.raise .p0 c).raise .p1 c

/-! ## The SRAM banks (R98) -/

/-- The record at an address; `none` where nothing has been written since full reset. -/
def Store.read : Store → Nat → Option Record
  | [], _ => none
  | (k, r) :: rest, a => if k = a then some r else Store.read rest a

/-- The store with `r` written at `a`, addresses kept strictly rising. -/
def Store.write : Store → Nat → Record → Store
  | [], a, r => [(a, r)]
  | (k, q) :: rest, a, r =>
    if a < k then (a, r) :: (k, q) :: rest
    else if a = k then (a, r) :: rest
    else (k, q) :: Store.write rest a r

/-- The canonical form: addresses strictly rising. -/
abbrev Store.wf (m : Store) : Prop := (m.map Prod.fst).Pairwise (· < ·)

/-- The address of slot `j` of bank `b`. -/
def bankAddr (b j : Nat) : Nat := b * bankSlots + j

/-! ## The ring (R99, R101, R105) -/

/-- The capacity C in records (R99). -/
def State.capacity (s : State) : Nat := s.items.ringBanks * bankSlots

/-- The number of records held, W - O modulo 2^32 (R101). -/
def State.count (s : State) : Nat := seqDist s.ring.o s.ring.w

/-- Whether the ring holds sequence `n`: the distance from O to `n` is below the count (R105). -/
def State.holds (s : State) (n : Seq) : Bool := decide (seqDist s.ring.o n < s.count)

/-- "a is at or before b": the distance is at most the capacity (spec 00 section 7.3). -/
def State.atOrBefore (s : State) (a b : Seq) : Bool := decide (seqDist a b ≤ s.capacity)

/-- "a is older than b": before b and not equal to it (spec 00 section 7.3). -/
def State.older (s : State) (a b : Seq) : Bool := s.atOrBefore a b && a != b

/-- "x lies within a..b" (spec 00 section 7.3). -/
def State.within (s : State) (x a b : Seq) : Bool := s.atOrBefore a x && s.atOrBefore x b

/-- The ring slot of the record of sequence `n`: W - n positions behind the write position, counting back from slot 0 to
slot C - 1 (R101). -/
def State.ringSlot (s : State) (n : Seq) : Nat :=
  (s.ring.writePos + (s.capacity - seqDist n s.ring.w % s.capacity)) % s.capacity

/-- The bank address of ring slot `k`: slots run through the ring banks in order from B(ring base) (R101). -/
def State.ringAddr (s : State) (k : Nat) : Nat := bankAddr s.items.ringBase k

/-- A read of sequence `n` from the ring: a copy of the record, or "not held" (R106). -/
def State.ringRead (s : State) (n : Seq) : Option Record :=
  if s.holds n then Store.read s.store (s.ringAddr (s.ringSlot n)) else none

/-- The write position after an append, from C - 1 wrapping to 0 (R104). -/
def State.nextWritePos (s : State) : Nat := if s.ring.writePos + 1 = s.capacity then 0 else s.ring.writePos + 1

/-! ## What the ring hands to cursors and captures -/

/-- An increase of skipped, saturating at 65535 (R112). -/
def addSkipped (skipped n : Nat) : Nat := min (skipped + n) 65535

/-- The cursor of `p` on the overwriting of sequence `old` (R114); a record being sent does not advance it afterwards (R117). -/
def State.lapCursor (s : State) (p : PortId) (old : Seq) : State :=
  let c := (s.port p).cursor
  if c.next = old then
    match c.mode with
    | .sequential =>
      (s.setCursor p { c with next := old + 1, skipped := addSkipped c.skipped 1, moved := true }).raise p .lapped
    | .latest => s.setCursor p { c with next := old + 1, moved := true }
  else s

/-- An entry becomes FAILED, keeping its other fields, and CAPTURE is set pending on its owner's port (R129, R146). -/
def State.failEntry (s : State) (e : Fin 4) (h : Held) (reason : FailReason) : State :=
  (s.setEntry e (some { h with stage := .failed reason })).raise h.owner .capture

/-- The sequence of an entry's next record, start sequence + copied count, once its window is fixed (R138). -/
def Held.nextSeq (h : Held) : Option Seq := h.window.map fun w => w.start + BitVec.ofNat 32 h.copied

/-- Entry `e` on the overwriting of sequence `old`: a FILLING entry whose next record it was has been overtaken (R140). -/
def State.overtakeEntry (old : Seq) (e : Fin 4) (s : State) : State :=
  match s.entry e with
  | some h => if h.stage = .filling ∧ h.nextSeq = some old then s.failEntry e h .overtaken else s
  | none => s

/-- An append (R103, R104): the record goes into the slot at the write position; when the ring was full it overwrites the
oldest record, which is handed to each cursor and each FILLING entry. -/
def State.append (s : State) (time : Time) (body : RecordBody) : State :=
  let record : Record := { seq := s.ring.w, tile := s.tile, time := time, body := body }
  let written : State := { s with
    store := Store.write s.store (s.ringAddr s.ring.writePos) record
    ring := { s.ring with w := s.ring.w + 1, writePos := s.nextWritePos } }
  if s.count < s.capacity then written
  else
    let old := s.ring.o
    let full : State := { written with ring := { written.ring with o := old + 1 } }
    (full.forPorts fun p t => t.lapCursor p old).forEntries (State.overtakeEntry old)

/-! ## Flush (R108, R126) -/

/-- The cursor of `p` at a flush: next at W and no mark (R108). A record being sent does not advance it afterwards (R118). -/
def State.flushCursor (p : PortId) (s : State) : State :=
  s.setCursor p { (s.port p).cursor with next := s.ring.w, mark := none, moved := true }

/-- Entry `e` at a flush: ARMED and FILLING become FAILED (R108, R141). -/
def State.flushEntry (e : Fin 4) (s : State) : State :=
  match s.entry e with
  | some h => if h.stage = .armed ∨ h.stage = .filling then s.failEntry e h .flushed else s
  | none => s

/-- The flush of R108. -/
def State.flushRing (s : State) : State :=
  let emptied : State := { s with ring := { s.ring with o := s.ring.w } }
  ((emptied.forPorts State.flushCursor).forEntries State.flushEntry).raiseBoth .ring

/-- The thresholds of the cursor of `p` brought within the capacity (R126). -/
def State.clampThresholds (p : PortId) (s : State) : State :=
  let c := (s.port p).cursor
  s.setCursor p { c with ready := min c.ready s.capacity, margin := min c.margin (s.capacity - 1) }

/-- The flush of a geometry write: the write position returns to 0 and the thresholds follow the new capacity (R100, R126). -/
def State.geometryFlush (s : State) : State :=
  (({ s with ring := { s.ring with writePos := 0 } } : State).flushRing).forPorts State.clampThresholds

/-! ## Captures: release and trigger -/

/-- A CAPTURE READ response of entry `e` in progress sends VOID fillers from its next place on (R143). -/
def Xfer.releaseEntry (e : Fin 4) : Xfer → Xfer
  | .capture e' live first k done cur => .capture e' (live && e' != e) first k done cur
  | .read k done cur => .read k done cur
  | .none => .none

/-- The response in progress on a port, changed. -/
def Port.updXfer (q : Port) (f : Xfer → Xfer) : Port :=
  match q.framing with
  | .response left resp => { q with framing := .response left { resp with xfer := f resp.xfer } }
  | .idle | .request _ _ | .discarding => q

/-- Entry `e` returns to EMPTY (R144). -/
def State.releaseEntry (e : Fin 4) (s : State) : State :=
  (s.setEntry e none).forPorts fun p t => t.updPort p fun q => q.updXfer (Xfer.releaseEntry e)

/-- Every entry owned by `p` is released (R145). -/
def State.releaseOwned (p : PortId) (s : State) : State :=
  s.forEntries fun e t =>
    match t.entry e with
    | some h => if h.owner = p then t.releaseEntry e else t
    | none => t

/-- The window of a relative entry from its look-back and look-ahead (R133). -/
def State.window (s : State) (back ahead : Nat) : Window :=
  let wanted := s.ring.w - BitVec.ofNat 32 back
  let short := s.older wanted s.ring.o
  let start := if short then s.ring.o else wanted
  { start := start, target := seqDist start s.ring.w + ahead, truncated := short }

/-- A relative entry triggers (R132): its window is fixed and it is FILLING, or READY at once when the window is empty
(R133). -/
def State.triggerHeld (s : State) (e : Fin 4) (h : Held) : State :=
  match h.reach with
  | some (back, ahead) =>
    let w := s.window back ahead
    if w.target = 0 then
      (s.setEntry e (some { h with stage := .ready, window := some w, copied := 0, readPos := 0 })).raise h.owner .capture
    else s.setEntry e (some { h with stage := .filling, window := some w, copied := 0, readPos := 0 })
  | none => s

/-- Entry `e` triggers when it is ARMED with trigger `g` (R134, R136). -/
def State.triggerArmed (g : Trigger) (e : Fin 4) (s : State) : State :=
  match s.entry e with
  | some h => if h.stage = .armed ∧ h.trigger = g then s.triggerHeld e h else s
  | none => s

/-- The contact event, as the capture unit takes it (R67, R136). -/
def State.contactEvent (s : State) : State := s.forEntries (State.triggerArmed .contact)

/-! ## Curves on the loss of a port (R29) -/

/-- A curve loses its load owner when that is `p`. -/
def Curve.orphan (p : PortId) : Curve → Curve
  | .loading count knots owner => .loading count knots (if owner = some p then none else owner)
  | .loaded knots => .loaded knots
  | .empty => .empty

/-- Every curve whose load owner is `p` is orphaned. -/
def State.orphanCurves (p : PortId) (s : State) : State := { s with curves := s.curves.map (Curve.orphan p) }

/-! ## Requests (R148, R149) -/

/-- What a complete request does: the state it leaves, and the response it fixes. -/
structure Answer where
  state : State
  reply : Reply
  xfer : Xfer := .none
deriving DecidableEq, Repr

/-- The response starts on port `p`, under the settings that stand at the end of the request (R149, R152, R157). -/
def State.respond (s : State) (p : PortId) (reply : Reply) (xfer : Xfer) : State :=
  s.updPort p fun q => { q with
    framing := .response transactionTime
      { reply := reply, format := q.settings.format, order := q.settings.order, outBits := 0, xfer := xfer } }

/-- A request of port `p` is complete. It takes effect in a transaction whose request is being received; a port in any other
framing state receives none, and nothing happens (R147, R148, R151; log 3). -/
def State.onRequest (s : State) (p : PortId) (f : State → Answer) : State :=
  match (s.port p).framing with
  | .request _ _ => (f s).state.respond p (f s).reply (f s).xfer
  | .idle | .response _ _ | .discarding => s

end Sys2Proof.Machine
end

