-- ==== Sys2Proof/Machine/Flags.lean ====
section
/-!
DEFINITION. The attention conditions: the two level conditions of a cursor (R123, R124), the pending set (R160), the ATTN line
(R161) and the two-byte form of a set of conditions (R159).
-/

namespace Sys2Proof.Machine

/-- The lag of the cursor of `p`, W - next modulo 2^32 (R113). -/
def State.lag (s : State) (p : PortId) : Nat := seqDist (s.port p).cursor.next s.ring.w

/-- The READY condition (R123). -/
def State.readyHolds (s : State) (p : PortId) : Bool :=
  match (s.port p).cursor.mode with
  | .sequential => decide ((s.port p).cursor.ready ≤ s.lag p)
  | .latest => decide (1 ≤ s.lag p)

/-- The NEAR_FULL condition (R124). -/
def State.nearFullHolds (s : State) (p : PortId) : Bool :=
  match (s.port p).cursor.mode with
  | .sequential => decide (s.capacity - (s.port p).cursor.margin ≤ s.lag p)
  | .latest => false

/-- The pending set of `p`, with the level conditions as they hold now (R160). -/
def State.pendingSet (s : State) (p : PortId) : CondSet :=
  { ready := s.readyHolds p, nearFull := s.nearFullHolds p, latched := (s.port p).latched }

/-- Whether a condition is in both of two latched sets. -/
def Latched.meets (a b : Latched) : Bool :=
  (a.lapped && b.lapped) || (a.prox && b.prox) || (a.capture && b.capture) || (a.engine && b.engine) ||
  (a.check && b.check) || (a.quiet && b.quiet) || (a.ring && b.ring) || (a.lapse && b.lapse) || (a.peer && b.peer)

/-- Whether a condition is in both sets. -/
def CondSet.meets (a b : CondSet) : Bool :=
  (a.ready && b.ready) || (a.nearFull && b.nearFull) || a.latched.meets b.latched

/-- ATTN of port `p` is asserted (driven low) exactly while the pending and enable sets have a condition in common (R161). -/
def State.attn (s : State) (p : PortId) : Bool := (s.pendingSet p).meets (s.port p).settings.enable

/-- The latched conditions that are not named in an ACK (R162). -/
def Latched.without (a named : Latched) : Latched :=
  { lapped := a.lapped && !named.lapped, prox := a.prox && !named.prox, capture := a.capture && !named.capture
    engine := a.engine && !named.engine, check := a.check && !named.check, quiet := a.quiet && !named.quiet
    ring := a.ring && !named.ring, lapse := a.lapse && !named.lapse, peer := a.peer && !named.peer }

/-- The set a two-byte field names: bit 0 READY to bit 10 PEER; bits 11 to 15 are ignored (R159). -/
def CondSet.ofHalf (v : Half) : CondSet :=
  { ready := v.getLsbD 0, nearFull := v.getLsbD 1
    latched :=
      { lapped := v.getLsbD 2, prox := v.getLsbD 3, capture := v.getLsbD 4, engine := v.getLsbD 5, check := v.getLsbD 6
        quiet := v.getLsbD 7, ring := v.getLsbD 8, lapse := v.getLsbD 9, peer := v.getLsbD 10 } }

/-- The two-byte form of a set (R159); bits 11 to 15 read as 0. -/
def CondSet.toHalf (a : CondSet) : Half :=
  let l := a.latched
  BitVec.setWidth 16 (BitVec.ofBoolListLE
    [a.ready, a.nearFull, l.lapped, l.prox, l.capture, l.engine, l.check, l.quiet, l.ring, l.lapse, l.peer])

/-- A set of ports in one byte: bit 0 for port 0, bit 1 for port 1 (R159). -/
def PortSet.toByte (a : PortSet) : Byte := BitVec.ofNat 8 (a.p0.toNat + 2 * a.p1.toNat)

end Sys2Proof.Machine
end

