-- ==== Sys2Proof/Machine/Operands.lean ====
section
/-!
DEFINITION. The codes of enumerated fields (spec 09 section 9.8), the configuration items with their ids and ranges (table
9.8.3), and how a parameter is judged and clamped.
-/

namespace Sys2Proof.Machine

/-- A value below `a` becomes a, a value above `b` becomes b, any other is kept (spec 00 section 7.5). -/
def clampNat (a b v : Nat) : Nat := max a (min v b)

/-- The clamp of spec 00 section 7.5 on integers. -/
def clampInt (a b v : Int) : Int := max a (min v b)

/-- A one-byte field holding `n`. -/
def Field.byte (n : Nat) : Field := .u8 (BitVec.ofNat 8 n)

/-- A two-byte field holding `n`. -/
def Field.half (n : Nat) : Field := .u16 (BitVec.ofNat 16 n)

/-! ## Codes -/

/-- Result codes (R158). -/
def ResultCode.code : ResultCode → Byte
  | .ok => 0x00
  | .clamped => 0x01
  | .partialDone => 0x02
  | .refusedState => 0x10
  | .notHolding => 0x11
  | .notOwner => 0x12
  | .outOfRange => 0x13
  | .noMark => 0x14
  | .noStore => 0x15
  | .notReady => 0x16
  | .curveFull => 0x17
  | .capturesPresent => 0x18
  | .badItem => 0x20
  | .badValue => 0x21
  | .badCommand => 0x22

/-- OK, or CLAMPED when a value was brought within range (R158). -/
def ResultCode.okUnless (wasClamped : Bool) : ResultCode := if wasClamped then .clamped else .ok

/-- Engine state codes. -/
def Engine.code : Engine → Nat
  | .halted => 0
  | .checking _ => 1
  | .idle => 2
  | .scanning _ => 3

/-- Cursor mode codes. -/
def CursorMode.code : CursorMode → Nat
  | .sequential => 0
  | .latest => 1

/-- The cursor mode a byte names. -/
def CursorMode.ofByte (b : Byte) : Option CursorMode :=
  match b.toNat with
  | 0 => some .sequential
  | 1 => some .latest
  | _ => none

/-- Record format codes. -/
def Format.code : Format → Nat
  | .basic => 0
  | .timed => 1
  | .full => 2

/-- The record format a byte names. -/
def Format.ofByte (b : Byte) : Option Format :=
  match b.toNat with
  | 0 => some .basic
  | 1 => some .timed
  | 2 => some .full
  | _ => none

/-- Byte order codes. -/
def byteOrderCode : ByteOrder → Nat
  | .little => 0
  | .big => 1

/-- The byte order a byte names. -/
def byteOrderOf (b : Byte) : Option ByteOrder :=
  match b.toNat with
  | 0 => some .little
  | 1 => some .big
  | _ => none

/-- Curve state codes. -/
def Curve.code : Curve → Nat
  | .empty => 0
  | .loading _ _ _ => 1
  | .loaded _ => 2

/-- The knots stored in a curve, in the order stored (R22). -/
def Curve.knots : Curve → List Knot
  | .empty => []
  | .loading _ knots _ => knots
  | .loaded knots => knots

/-- The load pointer: the number of knots stored since the curve was begun (R22). -/
def Curve.pointer (c : Curve) : Nat := c.knots.length

/-- The knot count, or 0 in EMPTY (R31). In LOADED the pointer equals it (R22). -/
def Curve.count : Curve → Nat
  | .empty => 0
  | .loading count _ _ => count
  | .loaded knots => knots.length

/-- The load owner, present only in LOADING (R22). -/
def Curve.owner : Curve → Option PortId
  | .loading _ _ owner => owner
  | .empty | .loaded _ => none

/-- An owner field: 0 absent, 1 port 0, 2 port 1 (R159). -/
def ownerCode : Option PortId → Nat
  | none => 0
  | some .p0 => 1
  | some .p1 => 2

/-- Check outcome codes. -/
def CheckOutcome.code : CheckOutcome → Nat
  | .none => 0
  | .running => 1
  | .passed => 2
  | .failed => 3
  | .aborted => 4

/-- Finding kind codes. -/
def FindingKind.code : FindingKind → Nat
  | .channelRange => 1
  | .channelClash => 2
  | .kindChannelReused => 3
  | .channelShared => 4
  | .curveUnloaded => 5
  | .curveOrder => 6
  | .levelOrder => 7
  | .contactOrder => 8
  | .frameBudget => 9
  | .coilOpen => 10
  | .coilShort => 11
  | .adjacentDefects => 12
  | .tooManyDefects => 13

/-- The severity of a finding: COIL_OPEN and COIL_SHORT are NOTE, every other kind is FAIL (spec 03 section 3.2). -/
def Finding.isFail (f : Finding) : Bool :=
  match f.kind with
  | .coilOpen | .coilShort => false
  | .channelRange | .channelClash | .kindChannelReused | .channelShared | .curveUnloaded | .curveOrder => true
  | .levelOrder | .contactOrder | .frameBudget | .adjacentDefects | .tooManyDefects => true

/-- Axis codes: 0 absent, 1 X, 2 Y. -/
def axisCode : Option Axis → Nat
  | none => 0
  | some .x => 1
  | some .y => 2

/-- The capture trigger a byte names. -/
def Trigger.ofByte (b : Byte) : Option Trigger :=
  match b.toNat with
  | 0 => some .immediate
  | 1 => some .sync
  | 2 => some .contact
  | 3 => some .absolute
  | _ => none

/-- Capture trigger codes. -/
def Trigger.code : Trigger → Nat
  | .immediate => 0
  | .sync => 1
  | .contact => 2
  | .absolute => 3

/-- Capture entry state codes of a non-EMPTY entry. -/
def CapStage.code : CapStage → Nat
  | .armed => 1
  | .filling => 2
  | .ready => 3
  | .failed _ => 4

/-- Fail reason codes: 0 absent, 1 OVERTAKEN, 2 FLUSHED. -/
def CapStage.failCode : CapStage → Nat
  | .failed .overtaken => 1
  | .failed .flushed => 2
  | .armed | .filling | .ready => 0

/-- The state code of an entry: 0 EMPTY. -/
def entryCode : Option Held → Nat
  | none => 0
  | some h => h.stage.code

/-- Slot state codes. -/
def Slot.code : Slot → Nat
  | .free => 0
  | .tracking _ => 1

/-- A number 0..3 in a byte, of a curve or an entry; `none` beyond. -/
def fourOf (b : Byte) : Option (Fin 4) :=
  match b.toNat with
  | 0 => some 0
  | 1 => some 1
  | 2 => some 2
  | 3 => some 3
  | _ => none

/-! ## Configuration items (table 9.8.3) -/

/-- The ten fields of a tool kind (R17), in the order of their ids. -/
inductive KindField
  | enabled
  | tip
  | eraser
  | collar
  | spacing
  | curve
  | phaseZero
  | phaseSpan
  | tipCorr
  | collarMin
deriving DecidableEq, Repr

/-- A configuration item. -/
inductive Item
  | xCoils
  | yCoils
  | pitch
  | dwell
  | checkMode
  | maxDefects
  | chanM (i : Fin 8)
  | chanN (i : Fin 8)
  | framePeriod
  | quietGating
  | quietTimeout
  | enterLevel
  | leaveLevel
  | leaveCount
  | contactOn
  | contactOff
  | ringBase
  | ringBanks
  | kind (k : Fin 4) (f : KindField)
deriving DecidableEq, Repr

/-- The field of a tool kind by its place f in the id 40h + 16 k + f. -/
def KindField.ofPlace : Nat → Option KindField
  | 0 => some .enabled
  | 1 => some .tip
  | 2 => some .eraser
  | 3 => some .collar
  | 4 => some .spacing
  | 5 => some .curve
  | 6 => some .phaseZero
  | 7 => some .phaseSpan
  | 8 => some .tipCorr
  | 9 => some .collarMin
  | _ => none

/-- The item an id names (table 9.8.3); `none` for an id that names no item. -/
def Item.ofId (id : Byte) : Option Item :=
  let n := id.toNat
  if 0x40 ≤ n then
    if h : (n - 0x40) / 16 < 4 then (KindField.ofPlace (n % 16)).map (Item.kind ⟨(n - 0x40) / 16, h⟩) else none
  else if h : 0x10 ≤ n ∧ n < 0x18 then some (.chanM ⟨n - 0x10, by omega⟩)
  else if h : 0x18 ≤ n ∧ n < 0x20 then some (.chanN ⟨n - 0x18, by omega⟩)
  else
    match n with
    | 0x01 => some .xCoils
    | 0x02 => some .yCoils
    | 0x03 => some .pitch
    | 0x04 => some .dwell
    | 0x05 => some .checkMode
    | 0x06 => some .maxDefects
    | 0x20 => some .framePeriod
    | 0x21 => some .quietGating
    | 0x22 => some .quietTimeout
    | 0x28 => some .enterLevel
    | 0x29 => some .leaveLevel
    | 0x2A => some .leaveCount
    | 0x2B => some .contactOn
    | 0x2C => some .contactOff
    | 0x30 => some .ringBase
    | 0x31 => some .ringBanks
    | _ => none

/-- What values an item takes: a range of numbers, or so many codes counted from 0. -/
inductive ItemRange
  | numeric (low high : Nat)
  | codes (n : Nat)
deriving DecidableEq, Repr

/-- The ranges and codes of table 9.8.3. -/
def Item.range : Item → ItemRange
  | .xCoils => .numeric 8 192
  | .yCoils => .numeric 8 128
  | .pitch => .numeric 100 1000
  | .dwell => .numeric 10 80
  | .checkMode => .codes 2
  | .maxDefects => .numeric 0 8
  | .chanM _ => .numeric 1 1023
  | .chanN _ => .numeric 1 255
  | .framePeriod => .numeric 2500 20000
  | .quietGating => .codes 2
  | .quietTimeout => .numeric 50 2000
  | .enterLevel => .numeric 0 65535
  | .leaveLevel => .numeric 0 65535
  | .leaveCount => .numeric 1 15
  | .contactOn => .numeric 0 8191
  | .contactOff => .numeric 0 8191
  | .ringBase => .numeric 0 7
  | .ringBanks => .numeric 1 8
  | .kind _ .enabled => .codes 2
  | .kind _ .tip => .codes 8
  | .kind _ .eraser => .codes 9
  | .kind _ .collar => .codes 8
  | .kind _ .spacing => .numeric 500 3000
  | .kind _ .curve => .codes 4
  | .kind _ .phaseZero => .numeric 0 4095
  | .kind _ .phaseSpan => .numeric 256 4095
  | .kind _ .tipCorr => .numeric 0 128
  | .kind _ .collarMin => .numeric 0 65535

/-- The value of a field of a tool kind as the item shows it. -/
def Kind.get (k : Kind) : KindField → Nat
  | .enabled => k.enabled.toNat
  | .tip => k.tip.val
  | .eraser => match k.eraser with
    | some c => c.val
    | none => 8
  | .collar => k.collar.val
  | .spacing => k.spacing
  | .curve => k.curve.val
  | .phaseZero => k.phaseZero
  | .phaseSpan => k.phaseSpan
  | .tipCorr => k.tipCorr
  | .collarMin => k.collarMin

/-- A field of a tool kind stored, from a value in the item's range. -/
def Kind.set (k : Kind) (f : KindField) (v : Nat) : Kind :=
  match f with
  | .enabled => { k with enabled := v == 1 }
  | .tip => { k with tip := Fin.ofNat 8 v }
  | .eraser => { k with eraser := if v = 8 then none else some (Fin.ofNat 8 v) }
  | .collar => { k with collar := Fin.ofNat 8 v }
  | .spacing => { k with spacing := v }
  | .curve => { k with curve := Fin.ofNat 4 v }
  | .phaseZero => { k with phaseZero := v }
  | .phaseSpan => { k with phaseSpan := v }
  | .tipCorr => { k with tipCorr := v }
  | .collarMin => { k with collarMin := v }

/-- The value stored for an item, as CONFIG READ returns it (R47). -/
def Items.get (s : Items) : Item → Nat
  | .xCoils => s.xCoils
  | .yCoils => s.yCoils
  | .pitch => s.pitch
  | .dwell => s.dwell
  | .checkMode => match s.checkMode with
    | .full => 0
    | .reuse => 1
  | .maxDefects => s.maxDefects
  | .chanM i => s.chans[i].m
  | .chanN i => s.chans[i].n
  | .framePeriod => s.framePeriod
  | .quietGating => s.quietGating.toNat
  | .quietTimeout => s.quietTimeout
  | .enterLevel => s.enterLevel
  | .leaveLevel => s.leaveLevel
  | .leaveCount => s.leaveCount
  | .contactOn => s.contactOn
  | .contactOff => s.contactOff
  | .ringBase => s.ringBase
  | .ringBanks => s.ringBanks
  | .kind k f => s.kinds[k].get f

/-- An item stored, from a value in its range. -/
def Items.set (s : Items) (i : Item) (v : Nat) : Items :=
  match i with
  | .xCoils => { s with xCoils := v }
  | .yCoils => { s with yCoils := v }
  | .pitch => { s with pitch := v }
  | .dwell => { s with dwell := v }
  | .checkMode => { s with checkMode := if v = 1 then .reuse else .full }
  | .maxDefects => { s with maxDefects := v }
  | .chanM i => { s with chans := s.chans.set i { s.chans[i] with m := v } }
  | .chanN i => { s with chans := s.chans.set i { s.chans[i] with n := v } }
  | .framePeriod => { s with framePeriod := v }
  | .quietGating => { s with quietGating := v == 1 }
  | .quietTimeout => { s with quietTimeout := v }
  | .enterLevel => { s with enterLevel := v }
  | .leaveLevel => { s with leaveLevel := v }
  | .leaveCount => { s with leaveCount := v }
  | .contactOn => { s with contactOn := v }
  | .contactOff => { s with contactOff := v }
  | .ringBase => { s with ringBase := v }
  | .ringBanks => { s with ringBanks := v }
  | .kind k f => { s with kinds := s.kinds.set k (s.kinds[k].set f v) }

/-- Whether the item is one of the two ring geometry items (R99, R100). -/
def Item.isGeometry : Item → Bool
  | .ringBase | .ringBanks => true
  | .xCoils | .yCoils | .pitch | .dwell | .checkMode | .maxDefects | .chanM _ | .chanN _ | .framePeriod | .quietGating => false
  | .quietTimeout | .enterLevel | .leaveLevel | .leaveCount | .contactOn | .contactOff | .kind _ _ => false

/-- Whether the item is one of the two coil counts (R2). -/
def Item.isCoilCount : Item → Bool
  | .xCoils | .yCoils => true
  | .pitch | .dwell | .checkMode | .maxDefects | .chanM _ | .chanN _ | .framePeriod | .quietGating | .quietTimeout => false
  | .enterLevel | .leaveLevel | .leaveCount | .contactOn | .contactOff | .ringBase | .ringBanks | .kind _ _ => false

/-- The value stored for a value written (R46): clamped to a numeric range, and a pitch that is then odd lowered by one (R1);
`none` for a value that names no member of an enumeration. -/
def Item.accept (i : Item) (v : Nat) : Option Nat :=
  match i.range with
  | .codes n => if v < n then some v else none
  | .numeric low high =>
    let c := clampNat low high v
    some (if i = .pitch then c - c % 2 else c)

/-- The adjustment of R99: when base plus banks exceeds 8, ring banks is lowered to 8 minus ring base. -/
def Items.fitRing (s : Items) : Items :=
  if 8 < s.ringBase + s.ringBanks then { s with ringBanks := 8 - s.ringBase } else s

end Sys2Proof.Machine
end

