-- ==== Sys2Proof/Machine/Wire.lean ====
section
/-!
DEFINITION. What a master sees on MISO: the bytes of a response and of a record at the port (R149, R153, R159, spec 09 section
9.8.2), and the bit shifted out at each place of a response (R147).
-/

namespace Sys2Proof.Machine

/-- The bytes of a field in the port's byte order (R159). -/
def Field.bytes (order : ByteOrder) : Field → List Byte
  | .u8 v => [v]
  | .u16 v => halfBytes order v
  | .u32 v => wordBytes order v

/-- A signed two-byte field, in two's complement (R159). -/
def Field.signed (n : Int) : Field := .u16 (BitVec.ofInt 16 n)

/-- The kind byte of a record: 01h ENTER, 02h SAMPLE, 03h LEAVE, 04h BREAK. -/
def RecordBody.kindCode : RecordBody → Nat
  | .stroke .enter _ => 1
  | .stroke .sample _ => 2
  | .stroke .leave _ => 3
  | .brk _ => 4

/-- Codes of the buttons in the state byte. -/
def Buttons.code : Buttons → Nat
  | .none => 0
  | .lower => 1
  | .upper => 2
  | .both => 3

/-- The tool byte: slot, tool kind, end, tile. -/
def toolByte (slot : SlotId) (kind : Fin 4) (e : ToolEnd) (tile : BitVec 2) : Byte :=
  BitVec.ofNat 8 ((match slot with | .s0 => 0 | .s1 => 1) + 2 * kind.val + 8 * (match e with | .tip => 0 | .eraser => 1)
    + 64 * tile.toNat)

/-- The flags byte: bit 0 EDGE to bit 7 CLAMPED_PRESSURE. -/
def Flags.toByte (f : Flags) : Byte :=
  BitVec.ofNat 8 (f.edge.toNat + 2 * f.fast.toNat + 4 * f.defect.toNat + 8 * f.held.toNat + 16 * f.tiltSat.toNat
    + 32 * f.tiltAbsent.toNat + 64 * f.clampedPos.toNat + 128 * f.clampedPressure.toNat)

/-- The fields of a record at the port in FULL, in the order of table 9.8.2; an absent field reads as zero (R102). -/
def Record.portFields (r : Record) : List Field :=
  match r.body with
  | .stroke _ f =>
    [.u32 r.seq, .byte r.body.kindCode, .u8 (toolByte f.slot f.kind f.toolEnd r.tile),
     .byte (f.contact.toNat + 2 * f.buttons.code), .u8 f.flags.toByte,
     .u32 (BitVec.ofNat 32 f.x), .u32 (BitVec.ofNat 32 f.y), .half f.pressure, .signed f.tiltX, .signed f.tiltY,
     .half f.tipAmp, .u32 r.time, .half f.colAmp, .signed f.colDx, .signed f.colDy, .half f.travel]
  | .brk cause =>
    [.u32 r.seq, .byte r.body.kindCode, .u8 (toolByte .s0 0 .tip r.tile),
     .byte (16 * (match cause with | .stopped => 1 | .halted => 2)), .byte 0,
     .u32 0, .u32 0, .half 0, .half 0, .half 0, .half 0, .u32 r.time, .half 0, .half 0, .half 0, .half 0]

/-- The fields of a place in FULL: a VOID filler has its sequence and every other field zero (R118, R153). -/
def Place.portFields : Place → List Field
  | .stroke r => r.portFields
  | .void seq =>
    [.u32 seq, .byte 0, .byte 0, .byte 0, .byte 0, .u32 0, .u32 0, .half 0, .half 0, .half 0, .half 0, .u32 0, .half 0,
     .half 0, .half 0, .half 0]

/-- How many of the sixteen fields a format carries (R153). -/
def Format.fieldCount : Format → Nat
  | .basic => 11
  | .timed => 12
  | .full => 16

/-- The length of a record place in bytes (R153). -/
def Format.length : Format → Nat
  | .basic => 24
  | .timed => 28
  | .full => 36

/-- The bytes of a place in a port's format and byte order (R153). -/
def Place.bytes (format : Format) (order : ByteOrder) (pl : Place) : List Byte :=
  (pl.portFields.take format.fieldCount).flatMap (Field.bytes order)

/-- The bytes of the part of a response that is fixed at completion (R149). -/
def Reply.bytes (format : Format) (order : ByteOrder) (r : Reply) : List Byte :=
  r.result.code :: (r.fields.flatMap (Field.bytes order)
    ++ r.records.flatMap fun r => (Place.stroke r).bytes format order)

/-- The header of a READ or CAPTURE READ response is four bytes: result, count, skipped (R115, R142). -/
def headerLength : Nat := 4

/-- The place of a response being sent, with the number of places completed before it. -/
def Xfer.current : Xfer → Option (Nat × Place)
  | .none => Option.none
  | .read _ done cur => cur.map fun pl => (done, pl)
  | .capture _ _ _ _ done cur => cur.map fun pl => (done, pl)

/-- The first bit of place `j` of a response, counted from the first bit of the response. -/
def Resp.placeStart (r : Resp) (j : Nat) : Nat := 8 * (headerLength + j * r.format.length)

/-- Byte `i` of a response as it goes out: the bytes fixed at completion, then the place being sent; any byte after the last
one of the response is 00h (R147). -/
def Resp.byteAt (r : Resp) (i : Nat) : Byte :=
  let fixed := r.reply.bytes r.format r.order
  if i < fixed.length then fixed.getD i 0
  else
    match r.xfer.current with
    | some (done, pl) =>
      let start := headerLength + done * r.format.length
      if start ≤ i then (pl.bytes r.format r.order).getD (i - start) 0 else 0
    | none => 0

/-- The bit of a response that the next falling edge puts on MISO, each byte most significant bit first (R147). -/
def Resp.nextBit (r : Resp) : Bool := (r.byteAt (r.outBits / 8)).getMsbD (r.outBits % 8)

end Sys2Proof.Machine
end

