-- ==== Sys2Proof/Machine/Sense.lean ====
section
/-!
DEFINITION. The sense front end (spec 01): channel frequencies, the defect map, the FULL sensing pass and the derivation with
their findings, and the substitution of defective coils.
-/

namespace Sys2Proof.Machine

/-- The number of coils of an axis (R1). -/
def Items.coils (s : Items) : Axis → Nat
  | .x => s.xCoils
  | .y => s.yCoils

/-- The frequency of channel Fi in hertz, floor(62 500 M / N) (R7). -/
def Items.frequency (s : Items) (i : Chan) : Nat := 62500 * s.chans[i].m / s.chans[i].n

/-- The defects of an axis (R8). -/
def DefectMap.axis (m : DefectMap) : Axis → AxisDefects
  | .x => m.x
  | .y => m.y

/-- The defects of an axis replaced. -/
def DefectMap.setAxis (m : DefectMap) (a : Axis) (d : AxisDefects) : DefectMap :=
  match a with
  | .x => { m with x := d }
  | .y => { m with y := d }

/-- The listed coils of an axis. -/
def DefectMap.coils (m : DefectMap) (a : Axis) : List Nat := (m.axis a).listed.map Defect.coil

/-- The number of defective coils found on an axis, listed plus unlisted (R11). -/
def AxisDefects.total (d : AxisDefects) : Nat := d.listed.length + d.unlisted

/-- A defective coil is added at the end of the list when it holds fewer than 8 entries; otherwise the unlisted count
increases (R8, R10). -/
def AxisDefects.add (d : AxisDefects) (c : Defect) : AxisDefects :=
  if d.listed.length < 8 then { d with listed := d.listed ++ [c] } else { d with unlisted := d.unlisted + 1 }

/-- The classification of a coil by its loop level (R10); `none` is sound. -/
def classify (level : Nat) : Option DefectReason :=
  if level ≤ 63 then some .openLoop else if level ≤ 960 then none else some .shortLoop

/-- A finding's kind from the reason of a defect (R11). -/
def DefectReason.finding : DefectReason → FindingKind
  | .openLoop => .coilOpen
  | .shortLoop => .coilShort

/-- Whether a defective coil makes TOO_MANY_DEFECTS: it raises the number found so far on its axis, `total` with it, above the
item, and none has been made for the axis (R11 step 3). -/
def makesTooMany (total maxDefects : Nat) (made : Bool) : Bool := decide (maxDefects < total) && !made

/-- The findings of a defective coil, in the order of R11. -/
def defectFindings (a : Axis) (c : Defect) (prevBad tooMany : Bool) : List Finding :=
  [⟨c.reason.finding, some a, some c.coil, none⟩]
  ++ (if prevBad then [⟨.adjacentDefects, some a, some (c.coil - 1), some c.coil⟩] else [])
  ++ (if tooMany then [⟨.tooManyDefects, some a, some c.coil, none⟩] else [])

/-- A finding is stored when fewer than 16 are; otherwise the truncated mark is set (R44). -/
def Report.add (r : Report) (f : Finding) : Report :=
  if r.findings.length < 16 then { r with findings := r.findings ++ [f] } else { r with truncated := true }

/-- Findings appended as they are made. -/
def Report.addAll (r : Report) (fs : List Finding) : Report := fs.foldl Report.add r

/-- The walk of an axis's list in a derivation (R13): `prev` is the coil before in the list, `seen` the number of listed coils
before, `made` whether TOO_MANY_DEFECTS was made. Answers the findings and `made` at the end. -/
def deriveList (a : Axis) (maxDefects : Nat) : List Defect → Option Nat → Nat → Bool → List Finding × Bool
  | [], _, _, made => ([], made)
  | c :: rest, prev, seen, made =>
    let tooMany := makesTooMany (seen + 1) maxDefects made
    let later := deriveList a maxDefects rest (some c.coil) (seen + 1) (made || tooMany)
    (defectFindings a c (prev.map (· + 1) == some c.coil) tooMany ++ later.1, later.2)

/-- The findings of an axis in a derivation (R13): those of the listed coils, and TOO_MANY_DEFECTS at the last listed coil when
there are unlisted ones and none has been made. -/
def deriveAxis (a : Axis) (d : AxisDefects) (maxDefects : Nat) : List Finding :=
  let walk := deriveList a maxDefects d.listed none 0 false
  walk.1 ++
    if 0 < d.unlisted && !walk.2 then [⟨.tooManyDefects, some a, d.listed.getLast?.map Defect.coil, none⟩] else []

/-- The findings of a derivation from the stored map: the X list, then the Y list (R13). -/
def deriveFindings (m : DefectMap) (maxDefects : Nat) : List Finding :=
  deriveAxis .x m.x maxDefects ++ deriveAxis .y m.y maxDefects

/-- The start of a FULL sensing pass at X coil 0 (R10). -/
def SensePass.start : SensePass :=
  { axis := .x, coil := 0, left := senseTime, prevBad := false, tooMany := false, failed := false }

/-- The coil sensed after this one: the next of the axis, Y coil 0 after the last X coil, none after the last Y coil (R10). -/
def SensePass.nextCoil (p : SensePass) (items : Items) : Option (Axis × Nat) :=
  if p.coil + 1 < items.coils p.axis then some (p.axis, p.coil + 1)
  else
    match p.axis with
    | .x => some (.y, 0)
    | .y => none

/-! ## Substitution of defective coils (R15, R16) -/

/-- What a listed coil at place `j` of a set of readings takes from its present neighbours (R15, R16). A set in which neither
neighbour is present does not arise (a window has seven coils); the coil then keeps its own reading (log 13). -/
def substituteAt (rs : List Reading) (j : Nat) (own : Reading) : Reading :=
  match (if j = 0 then none else rs[j - 1]?), rs[j + 1]? with
  | some a, some b => { amp := (a.amp + b.amp) / 2, phase := if a.amp < b.amp then b.phase else a.phase }
  | some a, none => a
  | none, some b => b
  | none, none => own

/-- A set of readings, its first coil `first`, with every listed coil replaced from the readings as read (R15, R16, R77). -/
def substitute (first : Nat) (listed : List Nat) (rs : List Reading) : List Reading :=
  rs.zipIdx.map fun r => if listed.contains (first + r.2) then substituteAt rs r.2 r.1 else r.1

/-- The place and the amplitude of the greatest reading, the lowest place on a tie (R59, R79). -/
def peak (rs : List Reading) : Nat × Nat :=
  rs.zipIdx.foldl (fun best r => if best.2 < r.1.amp then (r.2, r.1.amp) else best) (0, 0)

end Sys2Proof.Machine
end

