-- ==== Sys2Proof/Machine/Solver.lean ====
section
/-!
DEFINITION. The position solver (spec 05): from the four windows of readings of one slot to a tool sample, in exact integer
arithmetic.
-/

namespace Sys2Proof.Machine

/-- A quotient rounded half away from zero (R83). -/
def roundHalfAway (n d : Int) : Int :=
  n.sign * d.sign * (((2 * n.natAbs + d.natAbs) / (2 * d.natAbs) : Nat) : Int)

/-- The offset of the parabola's vertex from the centre of the peak coil (R82). -/
def vertexOffset (pitch a b c : Nat) : Int :=
  let num : Int := (a : Int) - c
  let den : Int := 2 * ((a : Int) - 2 * b + c)
  if den = 0 then 0 else roundHalfAway (num * pitch) den

/-- One of the four windows handed to the solver (R75): its first coil, the coil count of its axis, the listed coils of that
axis and the readings in ascending coil order. -/
structure WindowIn where
  first : Nat
  coils : Nat
  listed : List Nat
  readings : List Reading
deriving DecidableEq, Repr

/-- What stages 1 to 4 make of a window: the peak coil and its amplitude and phase, the coordinate, whether a neighbour was
mirrored, and whether a replaced coil is the peak or a neighbour of it in the window. -/
structure WindowOut where
  peakCoil : Nat
  amp : Nat
  phase : Nat
  coord : Int
  mirrored : Bool
  defectNear : Bool
deriving DecidableEq, Repr

/-- The amplitude at place `j` of a window; `none` outside it (R80). -/
def ampAt (rs : List Reading) (j : Nat) : Option Nat := rs[j]?.map Reading.amp

/-- The amplitudes of the coils before and after place `j`; a missing one outside the window is `none` (R80). -/
def neighbours (rs : List Reading) (j : Nat) : Option Nat × Option Nat :=
  (if j = 0 then none else ampAt rs (j - 1), ampAt rs (j + 1))

/-- The neighbours with a missing one mirrored through the peak (R80). -/
def mirrorNeighbours (n : Option Nat × Option Nat) : Nat × Nat :=
  ((n.1.or n.2).getD 0, (n.2.or n.1).getD 0)

/-- Stages 1 to 4 on one window (R77 to R84). -/
def solveWindow (pitch : Nat) (w : WindowIn) : WindowOut :=
  let rs := substitute w.first w.listed w.readings
  let top := peak rs
  let coil := w.first + top.1
  let near := neighbours rs top.1
  let ac := mirrorNeighbours near
  { peakCoil := coil
    amp := top.2
    phase := (rs[top.1]?.map Reading.phase).getD 0
    coord := (coil * pitch + pitch / 2 : Nat) + vertexOffset pitch ac.1 top.2 ac.2
    mirrored := near.1.isNone || near.2.isNone
    defectNear := w.listed.contains coil
      || (near.1.isSome && w.listed.contains (coil - 1)) || (near.2.isSome && w.listed.contains (coil + 1)) }

/-- Whether the peak is coil 0 or the last coil of its axis (R81). -/
def WindowOut.atEdge (o : WindowOut) (coils : Nat) : Bool := o.peakCoil == 0 || o.peakCoil + 1 == coils

/-- The value of step 1 of R86, before the clamp: (p - z0) * 4096 / s, truncating toward zero. -/
def rawTravel (phase : Nat) (k : Kind) : Int := (((phase : Int) - k.phaseZero) * 4096).tdiv k.phaseSpan

/-- The segment of a curve that holds `r`, the lower one at an interior knot (R88). -/
def findSegment (r : Nat) : List Knot → Option (Knot × Knot)
  | a :: b :: rest => if a.input ≤ r ∧ r ≤ b.input then some (a, b) else findSegment r (b :: rest)
  | [_] => none
  | [] => none

/-- The pressure along a segment, rounded half up (R89). -/
def interpolate (a b : Knot) (r : Nat) : Nat :=
  a.output + ((r - a.input) * (b.output - a.output) + (b.input - a.input) / 2) / (b.input - a.input)

/-- The pressure of a travel through a curve (R88, R89); a free value where no segment holds the travel (log 13). -/
def pressureOf (knots : List Knot) (r : Nat) : Nat :=
  match findSegment r knots with
  | some (a, b) => interpolate a b r
  | none => Config.offCurvePressure (knots.map fun k => (k.input, k.output)) r

/-- Bits of the integer square root, from bit `n - 1` down: each is kept when the square stays at most `v`. -/
def isqrtBits (v : Nat) : Nat → Nat → Nat
  | 0, h => h
  | n + 1, h => if (h + 2 ^ n) * (h + 2 ^ n) ≤ v then isqrtBits v n (h + 2 ^ n) else isqrtBits v n h

/-- The integer square root: the largest h with h * h at most v (spec 00 section 7.5, R93). -/
def isqrt (v : Nat) : Nat := isqrtBits v (v.log2 / 2 + 1) 0

/-- A tilt component, `d * 1000 / reach` rounded half away from zero and clamped (R92 to R94). -/
def tiltOf (d : Int) (reach : Nat) : Int := clampInt (-1000) 1000 (roundHalfAway (d * 1000) reach)

/-- The tip correction of a tilt component (R95). -/
def tipCorrection (tilt : Int) (k : Kind) : Int := roundHalfAway (tilt * k.spacing * k.tipCorr) 256000

/-- What stage 6 gives: the tilt, the clamped collar offsets and the two flags (R90 to R94). -/
structure Tilt where
  x : Int
  y : Int
  dx : Int
  dy : Int
  saturated : Bool
  absent : Bool
deriving DecidableEq, Repr

/-- Stage 6 from the collar strength and the collar offsets before any clamp (R90 to R94). -/
def tilt (k : Kind) (strength : Nat) (dx dy : Int) : Tilt :=
  if strength < k.collarMin then { x := 0, y := 0, dx := 0, dy := 0, saturated := false, absent := true }
  else
    let square := (dx * dx + dy * dy).toNat
    let beyond := decide (k.spacing * k.spacing < square)
    let reach := if beyond then isqrt square else k.spacing
    { x := tiltOf dx reach, y := tiltOf dy reach
      dx := clampInt (-32767) 32767 dx, dy := clampInt (-32767) 32767 dy
      saturated := beyond, absent := false }

/-- The solver (R75 to R97): one call for one slot, from its end X, end Y, collar X and collar Y windows. -/
def solve (items : Items) (knots : List Knot) (k : Kind) (wex wey wcx wcy : WindowIn) : Sample :=
  let ex := solveWindow items.pitch wex
  let ey := solveWindow items.pitch wey
  let cx := solveWindow items.pitch wcx
  let cy := solveWindow items.pitch wcy
  let raw := rawTravel ex.phase k
  let travel := (clampInt 0 4095 raw).toNat
  let collar := min cx.amp cy.amp
  let lean := tilt k collar (cx.coord - ex.coord) (cy.coord - ey.coord)
  let fixX := ex.coord - if lean.absent then 0 else tipCorrection lean.x k
  let fixY := ey.coord - if lean.absent then 0 else tipCorrection lean.y k
  let x := clampInt 0 ((items.xCoils * items.pitch : Nat) - 1) fixX
  let y := clampInt 0 ((items.yCoils * items.pitch : Nat) - 1) fixY
  let edgeX := ex.mirrored && ex.atEdge items.xCoils
  let edgeY := ey.mirrored && ey.atEdge items.yCoils
  { vals :=
      { x := x.toNat, y := y.toNat, pressure := pressureOf knots travel, travel := travel
        tiltX := lean.x, tiltY := lean.y
        tipAmp := min ex.amp ey.amp, colAmp := collar
        colDx := lean.dx, colDy := lean.dy
        flags :=
          { edge := edgeX || edgeY
            fast := (ex.mirrored && !edgeX) || (ey.mirrored && !edgeY)
            defect := ex.defectNear || ey.defectNear || (!lean.absent && (cx.defectNear || cy.defectNear))
            held := false
            tiltSat := lean.saturated
            tiltAbsent := lean.absent
            clampedPos := x != fixX || y != fixY
            clampedPressure := decide (raw < 0) || decide (4095 < raw) } }
    endXPeak := ex.peakCoil, endYPeak := ey.peakCoil
    colXPeak := cx.peakCoil, colYPeak := cy.peakCoil
    colPhase := cx.phase }

end Sys2Proof.Machine
end

