-- ==== Sys2Proof/Machine/Cursors.lean ====
section
/-!
DEFINITION. The client cursors and the ring's requests (spec 07; R107): READ with its record places, MARK, REWIND, CURSOR SETUP
and FLUSH.
-/

namespace Sys2Proof.Machine

/-- The largest number of records a READ or CAPTURE READ takes (R115, R142). -/
def maxRead : Nat := 64

/-! ## READ -/

/-- What a LATEST READ picks the newest of: the records of S0, those of S1, and the BREAKs (R120). -/
inductive PickClass
  | slot (i : SlotId)
  | brk
deriving DecidableEq, Repr

/-- The class of a record. -/
def Record.pickClass (r : Record) : PickClass :=
  match r.body with
  | .stroke _ f => .slot f.slot
  | .brk _ => .brk

/-- The records from next to W - 1, in ascending sequence order (R120). -/
def State.unread (s : State) (p : PortId) : List Record :=
  (List.range (s.lag p)).filterMap fun i => s.ringRead ((s.port p).cursor.next + BitVec.ofNat 32 i)

/-- The newest record of each class, in ascending sequence order: those that no later record of the list follows in their
class (R120). -/
def newestOfClass : List Record → List Record
  | [] => []
  | r :: later => if later.any fun q => q.pickClass == r.pickClass then newestOfClass later else r :: newestOfClass later

/-- The newest `n` of a list in ascending sequence order (R120). -/
def newest (n : Nat) (rs : List Record) : List Record := rs.drop (rs.length - n)

/-- The header of a READ: result, count, skipped (R115). -/
def readReply (n : Byte) (count skipped : Nat) (records : List Record) : Reply :=
  { result := .okUnless (decide (maxRead < n.toNat)), fields := [.byte count, .half skipped], records := records }

/-- READ (R115, R116, R120). -/
def State.answerRead (s : State) (p : PortId) (n : Byte) : Answer :=
  let c := (s.port p).cursor
  let most := min n.toNat maxRead
  match c.mode with
  | .sequential =>
    let k := min most (s.lag p)
    { state := s.setCursor p { c with skipped := 0 }
      reply := readReply n k c.skipped []
      xfer := .read k 0 none }
  | .latest =>
    let kept := newest most (newestOfClass (s.unread p))
    { state := s.setCursor p { c with skipped := 0, next := s.ring.w }
      reply := readReply n kept.length c.skipped kept }

/-! ## The record places of a SEQUENTIAL READ -/

/-- The response of a port replaced, its transaction timer kept. -/
def State.setResp (s : State) (p : PortId) (left : Nat) (resp : Resp) : State :=
  s.updPort p fun q => { q with framing := .response left resp }

/-- What a place of a SEQUENTIAL READ sends: a copy of the record at next, or a VOID filler with next (R117, R118). -/
def State.readPlace (s : State) (p : PortId) : Place :=
  let n := (s.port p).cursor.next
  match s.ringRead n with
  | some r => .stroke r
  | none => .void n

/-- READ_PLACE_BEGIN (R117): the next place of a SEQUENTIAL READ response is filled, and the response stands at its first bit
(log 4). From here on next has not moved. -/
def State.readPlaceBegin (s : State) (p : PortId) : State :=
  match (s.port p).framing with
  | .response left resp =>
    match resp.xfer with
    | .read k done none =>
      if done < k then
        (s.setCursor p { (s.port p).cursor with moved := false }).setResp p left
          { resp with outBits := resp.placeStart done, xfer := .read k done (some (s.readPlace p)) }
      else s
    | .read _ _ (some _) | .capture _ _ _ _ _ _ | .none => s
  | .idle | .request _ _ | .discarding => s

/-- The cursor when a place has been sent: next advances past a record when it still stands at it, not when a lap or a flush
has moved it since, and never past a VOID filler (R117, R118). -/
def Cursor.sent (c : Cursor) : Place → Cursor
  | .stroke r => if c.next = r.seq ∧ c.moved = false then { c with next := c.next + 1 } else c
  | .void _ => c

/-- READ_RECORD_COMPLETE (R117): the last byte of the place has been sent. -/
def State.readRecordComplete (s : State) (p : PortId) : State :=
  match (s.port p).framing with
  | .response _ resp =>
    match resp.xfer with
    | .read k done (some pl) =>
      (s.setCursor p ((s.port p).cursor.sent pl)).setResp p transactionTime
        { resp with outBits := resp.placeStart (done + 1), xfer := .read k (done + 1) none }
    | .read _ _ none | .capture _ _ _ _ _ _ | .none => s
  | .idle | .request _ _ | .discarding => s

/-! ## MARK, REWIND, CURSOR SETUP, FLUSH -/

/-- MARK (R121). -/
def State.answerMark (s : State) (p : PortId) : Answer :=
  let c := (s.port p).cursor
  { state := s.setCursor p { c with mark := some c.next }, reply := { result := .ok, fields := [.u32 c.next] } }

/-- The response to REWIND: next and skipped (R122). -/
def rewindReply (result : ResultCode) (c : Cursor) : Reply :=
  { result := result, fields := [.u32 c.next, .half c.skipped] }

/-- REWIND (R122). -/
def State.answerRewind (s : State) (p : PortId) : Answer :=
  let c := (s.port p).cursor
  match c.mark with
  | none => { state := s, reply := { result := .noMark, fields := [.u32 0, .half 0] } }
  | some m =>
    let d := seqDist m s.ring.w
    if d ≤ s.count then
      let back : Cursor := { c with next := m }
      { state := s.setCursor p back, reply := rewindReply .ok back }
    else
      let back : Cursor := { c with next := s.ring.o, skipped := addSkipped c.skipped (d - s.count) }
      { state := s.setCursor p back, reply := rewindReply .partialDone back }

/-- CURSOR SETUP (R125). -/
def State.answerCursorSetup (s : State) (p : PortId) (mode : Byte) (ready margin : Half) : Answer :=
  match CursorMode.ofByte mode with
  | none => { state := s, reply := { result := .badValue, fields := [.byte 0, .half 0, .half 0] } }
  | some m =>
    let r := clampNat 1 s.capacity ready.toNat
    let f := clampNat 0 (s.capacity - 1) margin.toNat
    { state := s.setCursor p { (s.port p).cursor with mode := m, ready := r, margin := f }
      reply :=
        { result := .okUnless (r != ready.toNat || f != margin.toNat), fields := [.byte m.code, .half r, .half f] } }

/-- FLUSH (R107). -/
def State.answerFlush (s : State) : Answer :=
  let t := s.flushRing
  { state := t, reply := { result := .ok, fields := [.u32 t.ring.w, .u32 t.ring.o] } }

/-! ## The meanings -/

/-- READ. -/
def execRead (p : PortId) (n : Byte) (s : State) : Host.Outcome State Fault Refusal :=
  .next (s.onRequest p fun t => t.answerRead p n)

/-- READ_PLACE_BEGIN. -/
def execReadPlaceBegin (p : PortId) (s : State) : Host.Outcome State Fault Refusal := .next (s.readPlaceBegin p)

/-- READ_RECORD_COMPLETE. -/
def execReadRecordComplete (p : PortId) (s : State) : Host.Outcome State Fault Refusal := .next (s.readRecordComplete p)

/-- MARK. -/
def execMark (p : PortId) (s : State) : Host.Outcome State Fault Refusal := .next (s.onRequest p fun t => t.answerMark p)

/-- REWIND. -/
def execRewind (p : PortId) (s : State) : Host.Outcome State Fault Refusal :=
  .next (s.onRequest p fun t => t.answerRewind p)

/-- CURSOR SETUP. -/
def execCursorSetup (p : PortId) (mode : Byte) (ready margin : Half) (s : State) : Host.Outcome State Fault Refusal :=
  .next (s.onRequest p fun t => t.answerCursorSetup p mode ready margin)

/-- FLUSH. -/
def execFlush (p : PortId) (s : State) : Host.Outcome State Fault Refusal := .next (s.onRequest p State.answerFlush)

end Sys2Proof.Machine
end

