-- ==== Sys2Proof/Machine/Together.lean ====
section
/-!
DEFINITION. What falls together with an append (R104, R106, R109, R128). The records of one solve stage, and those of one stop of
frames, are several appends, each taken whole at the ring; a request of the ring or of a cursor, or a place of a READ, that
reaches the ring at the same time may be taken before any of them. The events that fall together are those of the commands that
wait at the front of the queue, at most one of each port, and a free value chooses which are taken (log 16). A command whose event
has been taken finds nothing more due when its own turn comes.
-/

namespace Sys2Proof.Machine

/-! ## The bits that bring an event -/

/-- A bit sampled from MOSI, most significant bit first (R147). -/
def Rx.shift (rx : Rx) (mosi : Bool) : Rx :=
  let acc := (rx.acc <<< 1) ||| (BitVec.ofBool mosi).setWidth 8
  if rx.nbits = 7 then { bytes := rx.bytes ++ [acc], nbits := 0, acc := 0 }
  else { rx with nbits := rx.nbits + 1, acc := acc }

/-- The request whose last parameter byte has just been received, if it has (R148). The byte order is the port's, which only a
request of the same port changes (R159). -/
def Rx.complete (rx : Rx) (order : ByteOrder) (p : PortId) : Option Instr :=
  match rx.bytes with
  | code :: params =>
    if rx.nbits = 0 ∧ params.length = paramCount code then decodeRequest order p code params else none
  | [] => none

/-- Whether the next bit to go out is the first of a place that has not begun. -/
def Resp.placeDue (r : Resp) : Bool :=
  match r.xfer with
  | .read k done none | .capture _ _ _ k done none => decide (done < k) && r.outBits == r.placeStart done
  | .read _ _ (some _) | .capture _ _ _ _ _ (some _) | .none => false

/-- Whether the last bit of the place being sent has gone out. -/
def Resp.placeSent (r : Resp) : Bool :=
  match r.xfer with
  | .read _ done (some _) | .capture _ _ _ _ done (some _) => r.outBits == r.placeStart (done + 1)
  | .read _ _ none | .capture _ _ _ _ _ none | .none => false

/-! ## The events of the ring and of the cursors -/

/-- The requests that act on the ring or on a cursor and on nothing else: READ, MARK, REWIND, CURSOR SETUP and FLUSH, each with
its port and its answer (spec 07; R107). -/
def ringRequest : Instr → Option (PortId × (State → Answer))
  | .read p n => some (p, fun t => t.answerRead p n)
  | .mark p => some (p, fun t => t.answerMark p)
  | .rewind p => some (p, fun t => t.answerRewind p)
  | .cursorSetup p mode ready margin => some (p, fun t => t.answerCursorSetup p mode ready margin)
  | .flush p => some (p, State.answerFlush)
  | .status _ | .portSetup _ _ _ _ _ | .ack _ _ | .hold _ | .release _ | .run _ | .stop _ | .portReset _ => none
  | .configWrite _ _ _ | .configRead _ _ | .curveBegin _ _ _ | .curveKnot _ _ _ _ | .curveRead _ _ | .checkReport _ => none
  | .capture _ _ _ _ _ | .captureStatus _ | .captureRead _ _ _ _ | .captureRelease _ _ | .badCommand _ _ => none
  | .fullReset _ _ _ _ _ | .csFall _ | .csRise _ | .transactionAbandoned _ | .lapseTimerExpiry _ | .frameStart => none
  | .readingEnd _ _ | .guardExpiry | .coilSensingEnd _ | .quietRise | .quietFall | .quietTimerExpiry => none
  | .tsyncFall | .tsyncPulseExpiry | .captureCopy _ | .readPlaceBegin _ | .readRecordComplete _ => none
  | .captureReadPlaceBegin _ | .captureReadRecordComplete _ | .sclkEdge _ _ _ | .timestampCounterTick => none

/-- The event that an edge on port `p` brings to the ring or to a cursor: a rising edge may complete one of those requests, or
the place of a READ being sent, and a falling edge may begin one (R117, R148). An edge within a response that brings none has no
event and is passed over. -/
def State.edgeEvent (s : State) (p : PortId) (edge : ClockEdge) (mosi : Bool) : Option State :=
  match (s.port p).framing, edge with
  | .request _ rx, .rise =>
    let got := rx.shift mosi
    ((got.complete (s.port p).settings.order p).bind ringRequest).map fun a =>
      (s.updPort p fun q => { q with framing := .request transactionTime got }).onRequest p a.2
  | .request _ _, .fall => none
  | .response _ resp, .rise => some (if resp.placeSent then s.readRecordComplete p else s)
  | .response _ resp, .fall => some (if resp.placeDue then s.readPlaceBegin p else s)
  | .idle, _ | .discarding, _ => none

/-- The event that a waiting command brings to the ring or to a cursor, if it brings one: its port, and the state after it. -/
def State.ringEvent (s : State) (i : Instr) : Option (PortId × State) :=
  match i with
  | .sclkEdge p edge mosi => (s.edgeEvent p edge mosi).map fun t => (p, t)
  | .readPlaceBegin p => some (p, s.readPlaceBegin p)
  | .readRecordComplete p => some (p, s.readRecordComplete p)
  | _ => (ringRequest i).map fun a => (a.1, s.onRequest a.1 a.2)

/-! ## Which of them are taken -/

/-- The events of the commands of a list, from its front on, as far as each is the first of its port, no port of `busy` has part,
and the free value has it taken. -/
def State.takeFirst (busy : List PortId) : List Instr → State → State
  | [], s => s
  | i :: rest, s =>
    match s.ringEvent i with
    | none => s
    | some (p, t) =>
      if busy.contains p then s
      else if Config.takenBefore s.choices then State.takeFirst (p :: busy) rest { t with choices := t.choices + 1 }
      else { s with choices := s.choices + 1 }

/-- Before an append of an event of several: what falls together with it and is taken first (R109, R128). The ports of `busy` have
no part in it. -/
def State.takeTogether (s : State) (busy : List PortId) : State := State.takeFirst busy s.pending s

end Sys2Proof.Machine
end

