-- ==== Sys2Proof/Machine/Slots.lean ====
section
/-!
DEFINITION. Tool slots (spec 04): windows, the outcome of a frame and the records it yields, contact and buttons, the
evaluation of a sweep with its candidates and allocation, and the closing of slots when frames stop.
-/

namespace Sys2Proof.Machine

/-- The kind entry of a kind number. -/
def Items.kind (s : Items) (k : Fin 4) : Kind := s.kinds[k]

/-- Whether a slot is TRACKING. -/
def Slot.isTracking : Slot → Bool
  | .free => false
  | .tracking _ => true

/-- The number of slots that are TRACKING (R50). -/
def State.trackingCount (s : State) : Nat := s.slot0.isTracking.toNat + s.slot1.isTracking.toNat

/-- Whether a kind is the tool kind of a TRACKING slot. -/
def Slot.tracks (k : Fin 4) : Slot → Bool
  | .free => false
  | .tracking t => t.kind == k

/-- Whether a kind is tracked by either slot. -/
def State.kindTracked (s : State) (k : Fin 4) : Bool := s.slot0.tracks k || s.slot1.tracks k

/-! ## Windows and tracking readings (R50, R62) -/

/-- The first coil of a window with centre `c` on an axis of `n` coils (R62). -/
def windowFirst (n c : Nat) : Nat := min (c - 3) (n - 7)

/-- The axis of a window (R50). -/
def WindowId.axis : WindowId → Axis
  | .endX | .colX => .x
  | .endY | .colY => .y

/-- The centre coil of a window (R57). -/
def Track.centre (t : Track) : WindowId → Nat
  | .endX => t.endX
  | .endY => t.endY
  | .colX => t.colX
  | .colY => t.colY

/-- The channel of the end in use (R19). A slot on the eraser of a kind without one does not arise: kinds change only in
HALTED (R18, log 13). -/
def Kind.endChannel (k : Kind) : ToolEnd → Chan
  | .tip => k.tip
  | .eraser => k.eraser.getD k.tip

/-- The channel a window is read on (R19, R50). -/
def Items.windowChannel (items : Items) (t : Track) : WindowId → Chan
  | .endX | .endY => (items.kind t.kind).endChannel t.toolEnd
  | .colX | .colY => (items.kind t.kind).collar

/-- The seven readings of one window, in ascending coil order (R50, R62). -/
def windowReads (items : Items) (i : SlotId) (t : Track) (w : WindowId) : List TrackRead :=
  (List.range 7).map fun j =>
    { slot := i, window := w, chan := items.windowChannel t w, axis := w.axis
      coil := windowFirst (items.coils w.axis) (t.centre w) + j }

/-- The 28 tracking readings of a TRACKING slot (R50). -/
def slotReads (items : Items) (i : SlotId) : Slot → List TrackRead
  | .free => []
  | .tracking t =>
    windowReads items i t .endX ++ windowReads items i t .endY ++ windowReads items i t .colX ++ windowReads items i t .colY

/-- The tracking readings of a frame, S0's before S1's (R50). -/
def State.trackPlan (s : State) : List TrackRead := slotReads s.items .s0 s.slot0 ++ slotReads s.items .s1 s.slot1

/-- The readings taken for one window of one slot. -/
def readingsOf (got : List (TrackRead × Reading)) (i : SlotId) (w : WindowId) : List Reading :=
  (got.filter fun r => r.1.slot == i && r.1.window == w).map Prod.snd

/-- A window as it is handed to the solver (R75). -/
def State.windowIn (s : State) (got : List (TrackRead × Reading)) (i : SlotId) (t : Track) (w : WindowId) : WindowIn :=
  { first := windowFirst (s.items.coils w.axis) (t.centre w)
    coils := s.items.coils w.axis
    listed := s.map.coils w.axis
    readings := readingsOf got i w }

/-- The solver's call for a slot: the kind's entry and the curve it names (R32, R75). -/
def State.solveFor (s : State) (got : List (TrackRead × Reading)) (i : SlotId) (t : Track) : Sample :=
  let k := s.items.kind t.kind
  solve s.items (s.curves[k.curve]).knots k
    (s.windowIn got i t .endX) (s.windowIn got i t .endY) (s.windowIn got i t .colX) (s.windowIn got i t .colY)

/-! ## The outcome of a frame (R63 to R69) -/

/-- Contact after a good frame (R67). -/
def contactAfter (items : Items) (before : Bool) (pressure : Nat) : Bool :=
  if before then !decide (pressure ≤ items.contactOff) else decide (items.contactOn ≤ pressure)

/-- The buttons a collar phase encodes (R69). -/
def buttonsOf (phase : Nat) : Buttons :=
  if phase ≤ 1023 then .none else if phase ≤ 2047 then .lower else if phase ≤ 3071 then .upper else .both

/-- The windows recentred on the peaks of the sample: the collar windows on the end peaks when the collar is absent (R63). -/
def Track.recentre (t : Track) (sm : Sample) : Track :=
  if sm.vals.flags.tiltAbsent then
    { t with endX := sm.endXPeak, endY := sm.endYPeak, colX := sm.endXPeak, colY := sm.endYPeak }
  else { t with endX := sm.endXPeak, endY := sm.endYPeak, colX := sm.colXPeak, colY := sm.colYPeak }

/-- The fields of a record that repeats a sample with the slot's contact and buttons (R68). -/
def strokeOf (i : SlotId) (t : Track) (v : SampleVals) : StrokeFields :=
  { slot := i, kind := t.kind, toolEnd := t.toolEnd, x := v.x, y := v.y, pressure := v.pressure
    tiltX := v.tiltX, tiltY := v.tiltY, contact := t.contact, buttons := t.buttons, flags := v.flags
    tipAmp := v.tipAmp, colAmp := v.colAmp, colDx := v.colDx, colDy := v.colDy, travel := v.travel }

/-- The fields of a held SAMPLE: the last good sample's, with HELD added (R68). -/
def heldOf (i : SlotId) (t : Track) (v : SampleVals) : StrokeFields :=
  let f := strokeOf i t v
  { f with flags := { f.flags with held := true } }

/-- The fields of a LEAVE: the last good sample's place, tilt and collar offsets, everything else zero (R68). -/
def leaveOf (i : SlotId) (t : Track) (v : SampleVals) : StrokeFields :=
  { strokeOf i t v with pressure := 0, contact := false, flags := {}, tipAmp := 0, colAmp := 0, travel := 0 }

/-- A slot leaves with a LEAVE record, and PROX is set pending on both ports (R65, R70, R71). Without an ENTER before it
nothing is written (R66); without a last good sample, which every slot past its ENTER has (R66), there is none to repeat
(log 13). -/
def State.leave (s : State) (i : SlotId) (t : Track) (time : Time) : State :=
  match t.first, t.lastGood with
  | false, some v => ((s.append time (.stroke .leave (leaveOf i t v))).raiseBoth .prox).setSlot i .free
  | _, _ => s.setSlot i .free

/-- A good frame (R64): the slot as it stands after the record, its windows recentred. -/
def Track.good (items : Items) (t : Track) (sm : Sample) : Track :=
  { t with
    miss := 0
    lastGood := some sm.vals
    contact := contactAfter items t.contact sm.vals.pressure
    buttons := if sm.vals.flags.tiltAbsent then t.buttons else buttonsOf sm.colPhase
    first := false }

/-- The work of a slot in a good frame (R64): the record, PROX for an ENTER (R70), the contact event (R67), recentring. -/
def State.goodFrame (s : State) (i : SlotId) (t : Track) (sm : Sample) (time : Time) : State :=
  let after := t.good s.items sm
  let appended := s.append time (.stroke (if t.first then .enter else .sample) (strokeOf i after sm.vals))
  let raised := if t.first then appended.raiseBoth .prox else appended
  let called := if !t.contact && after.contact then raised.contactEvent else raised
  called.setSlot i (.tracking (after.recentre sm))

/-- The work of a slot in a faint frame (R65, R66). -/
def State.faintFrame (s : State) (i : SlotId) (t : Track) (sm : Sample) (time : Time) : State :=
  let after := { t with miss := t.miss + 1 }
  if after.miss = s.items.leaveCount then s.leave i t time
  else
    match t.first, t.lastGood with
    | false, some v =>
      (s.append time (.stroke .sample (heldOf i after v))).setSlot i (.tracking (after.recentre sm))
    | _, _ => s.setSlot i (.tracking (after.recentre sm))

/-- The solve stage's work for one slot that took tracking readings in this frame (R51, R64, R65). -/
def State.solveSlot (s : State) (got : List (TrackRead × Reading)) (time : Time) (i : SlotId) : State :=
  match s.slot i with
  | .tracking t =>
    let sm := s.solveFor got i t
    if s.items.leaveLevel ≤ sm.vals.tipAmp then s.goodFrame i t sm time else s.faintFrame i t sm time
  | .free => s

/-! ## The evaluation of a sweep (R59 to R61) -/

/-- A candidate (R59). -/
structure Candidate where
  kind : Fin 4
  toolEnd : ToolEnd
  strength : Nat
  xPeak : Nat
  yPeak : Nat
deriving DecidableEq, Repr

/-- The enabled kind and the end a channel belongs to (R19). -/
def Items.attribute (items : Items) (c : Chan) : Option (Fin 4 × ToolEnd) :=
  (List.finRange 4).findSome? fun k =>
    let e := items.kind k
    if e.enabled then
      if e.tip = c then some (k, .tip) else if e.eraser = some c then some (k, .eraser) else none
    else none

/-- The readings of one channel and axis of a sweep, as read. -/
def sweepReadings (got : List SweepReading) (c : Chan) (a : Axis) : List Reading :=
  (got.filter fun r => r.chan == c && r.axis == a).map SweepReading.reading

/-- The candidate of a channel, when its strength reaches the enter level (R59). -/
def State.candidate (s : State) (got : List SweepReading) (c : Chan) : Option Candidate :=
  let px := peak (substitute 0 (s.map.coils .x) (sweepReadings got c .x))
  let py := peak (substitute 0 (s.map.coils .y) (sweepReadings got c .y))
  let strength := min px.2 py.2
  if s.items.enterLevel ≤ strength then
    (s.items.attribute c).map fun ke =>
      { kind := ke.1, toolEnd := ke.2, strength := strength, xPeak := px.1, yPeak := py.1 }
  else none

/-- Whether `d`, the other end of the same kind, is kept in place of `c`: the greater strength, the tip on a tie (R60). -/
def Candidate.beatenBy (c d : Candidate) : Bool :=
  d.kind == c.kind && d.toolEnd != c.toolEnd
    && (decide (c.strength < d.strength) || (d.strength == c.strength && d.toolEnd == .tip))

/-- Whether `c` is allocated before `d`: greater strength first, equal strengths in ascending kind number (R61). -/
def Candidate.before (c d : Candidate) : Bool :=
  decide (d.strength < c.strength) || (d.strength == c.strength && decide (c.kind ≤ d.kind))

/-- A candidate put into its place of the order of R61. -/
def insertCandidate (c : Candidate) : List Candidate → List Candidate
  | [] => [c]
  | d :: rest => if c.before d then c :: d :: rest else d :: insertCandidate c rest

/-- The candidates of a sweep after the two reductions of R60, in the order of R61. -/
def State.candidates (s : State) (list : List Chan) (got : List SweepReading) : List Candidate :=
  let found := list.filterMap (s.candidate got)
  let oneEnd := found.filter fun c => !found.any c.beatenBy
  (oneEnd.filter fun c => !s.kindTracked c.kind).foldr insertCandidate []

/-- A slot as it is allocated to a candidate (R61). -/
def Candidate.track (c : Candidate) : Track :=
  { kind := c.kind, toolEnd := c.toolEnd, endX := c.xPeak, endY := c.yPeak, colX := c.xPeak, colY := c.yPeak
    miss := 0, contact := false, buttons := .none, first := true, lastGood := none }

/-- A candidate takes the lowest-numbered FREE slot; one that finds none is discarded (R61). -/
def State.allocate (s : State) (c : Candidate) : State :=
  match s.slot0, s.slot1 with
  | .free, _ => s.setSlot .s0 (.tracking c.track)
  | .tracking _, .free => s.setSlot .s1 (.tracking c.track)
  | .tracking _, .tracking _ => s

/-- The evaluation of a complete sweep and the allocation (R59 to R61). -/
def State.evaluateSweep (s : State) (sw : Sweep) : State := (s.candidates sw.list sw.got).foldl State.allocate s

/-! ## Closing the slots (R71, R72) -/

/-- A slot is closed when frames stop (R71). -/
def State.closeSlot (s : State) (i : SlotId) (start : Time) : State :=
  match s.slot i with
  | .tracking t => s.leave i t start
  | .free => s

/-- Port `p` stops frames: the slots are closed, S0 first, and the BREAK is appended with the time of writing (R55, R71, R72). What
falls together with an append of the stop may be taken before it (R109, R128). Of `p` itself nothing is: in a HOLD, STOP or PORT
RESET its one request is the stop; a request of `p` that falls together with its lapse is taken before or after the lapse (R156);
and a place of a READ that `p` has in progress at its lapse (R155) begins and ends before or after the whole stop: DESIGN CHOICE
(log 16). -/
def State.closeFrames (s : State) (p : PortId) (start : Time) (cause : BreakCause) : State :=
  let left := (s.closeSlot .s0 start).takeTogether [p]
  let closed := (left.closeSlot .s1 start).takeTogether [p]
  closed.append closed.counter (.brk cause)

end Sys2Proof.Machine
end

