-- ==== Sys2Proof/Machine/Check.lean ====
section
/-!
DEFINITION. The configuration check (R21, R23, R41, R42): the findings it makes, in the order they stand in the report.
-/

namespace Sys2Proof.Machine

/-- The channels a kind names: tip, eraser when not ABSENT, collar (R21). -/
def Kind.channels (k : Kind) : List Chan := [k.tip] ++ k.eraser.toList ++ [k.collar]

/-- The enabled kinds, in ascending order. -/
def Items.enabledKinds (s : Items) : List (Fin 4) := (List.finRange 4).filter fun k => (s.kind k).enabled

/-- The used channels, in ascending order, each once (R41). -/
def Items.usedChannels (s : Items) : List Chan :=
  (List.finRange 8).filter fun c => s.enabledKinds.any fun k => (s.kind k).channels.contains c

/-- The pairs of a list, in the order of the first and then of the second. -/
def pairs {α : Type} : List α → List (α × α)
  | [] => []
  | a :: rest => rest.map (fun b => (a, b)) ++ pairs rest

/-- Group 1: used channels outside 200 000..800 000 Hz (R41). -/
def rangeFindings (s : Items) : List Finding :=
  (s.usedChannels.filter fun c => decide (s.frequency c < 200000) || decide (800000 < s.frequency c)).map fun c =>
    ⟨.channelRange, none, some c.val, none⟩

/-- The difference of two frequencies. -/
def freqGap (a b : Nat) : Nat := (a - b) + (b - a)

/-- Group 2: pairs of used channels that differ by less than 8 000 Hz (R41). -/
def clashFindings (s : Items) : List Finding :=
  ((pairs s.usedChannels).filter fun c => decide (freqGap (s.frequency c.1) (s.frequency c.2) < 8000)).map fun c =>
    ⟨.channelClash, none, some c.1.val, some c.2.val⟩

/-- The lowest-numbered channel that a kind uses more than once (R21). -/
def Kind.reused (k : Kind) : Option Chan := (List.finRange 8).find? fun c => decide (1 < k.channels.count c)

/-- Group 3: enabled kinds that use a channel more than once (R21, test 1). -/
def reusedFindings (s : Items) : List Finding :=
  s.enabledKinds.filterMap fun k =>
    (s.kind k).reused.map fun c => ⟨.kindChannelReused, none, some k.val, some c.val⟩

/-- Group 4: pairs of enabled kinds that share a channel (R21, test 2). -/
def sharedFindings (s : Items) : List Finding :=
  ((pairs s.enabledKinds).filter fun k => (s.kind k.1).channels.any fun c => (s.kind k.2).channels.contains c).map fun k =>
    ⟨.channelShared, none, some k.1.val, some k.2.val⟩

/-- Test 2 of R23: the first position whose input does not exceed the one before it, or whose output is below it. -/
def fallAt : Nat → List Knot → Option Nat
  | k, a :: b :: rest => if a.input < b.input ∧ a.output ≤ b.output then fallAt (k + 1) (b :: rest) else some (k + 1)
  | _, [_] => none
  | _, [] => none

/-- The position of the knot at fault in a LOADED curve, by the first of the three tests of R23 that fails. -/
def curveFault (knots : List Knot) : Option Nat :=
  if knots.head?.map Knot.input ≠ some 0 then some 0
  else
    match fallAt 0 knots with
    | some k => some k
    | none => if knots.getLast?.map Knot.input ≠ some 4095 then some (knots.length - 1) else none

/-- The lowest-numbered enabled kind that names a curve (R23). -/
def Items.curveUser (s : Items) (c : Fin 4) : Option (Fin 4) := s.enabledKinds.find? fun k => (s.kind k).curve == c

/-- The finding of a curve that an enabled kind names, if any (R23). -/
def curveFinding (s : Items) (curves : Vector Curve 4) (c : Fin 4) : Option Finding :=
  match s.curveUser c with
  | none => none
  | some k =>
    match curves[c] with
    | .empty | .loading _ _ _ => some ⟨.curveUnloaded, none, some c.val, some k.val⟩
    | .loaded knots => (curveFault knots).map fun pos => ⟨.curveOrder, none, some c.val, some pos⟩

/-- Group 5: the findings of the curves, in ascending order (R23). -/
def curveFindings (s : Items) (curves : Vector Curve 4) : List Finding :=
  (List.finRange 4).filterMap (curveFinding s curves)

/-- Groups 6 to 8: LEVEL_ORDER, CONTACT_ORDER and FRAME_BUDGET (R42). -/
def levelFindings (s : Items) : List Finding :=
  (if s.leaveLevel < s.enterLevel then [] else [⟨.levelOrder, none, none, none⟩])
  ++ (if s.contactOff < s.contactOn then [] else [⟨.contactOrder, none, none, none⟩])
  ++ (if s.framePeriod < 56 * s.dwell + 100 then [⟨.frameBudget, none, none, none⟩] else [])

/-- The findings of the configuration check, in the order of R42. -/
def configFindings (s : Items) (curves : Vector Curve 4) : List Finding :=
  rangeFindings s ++ clashFindings s ++ reusedFindings s ++ sharedFindings s ++ curveFindings s curves ++ levelFindings s

end Sys2Proof.Machine
end

