-- ==== Sys2Proof/Machine/Frames.lean ====
section
/-!
DEFINITION. Frames (spec 03 sections 3.4 to 3.6): the frame schedule, tracking, guard and search, the sweep, QUIET gating, and
the events that drive them. An event for which nothing is due in the state leaves the state as it is (log 2).
-/

namespace Sys2Proof.Machine

/-- A reading that has become due: it begins at once, or in ACTIVE gating with QUIET low waits, its quiet timer started
(R54). -/
def State.duePath (s : State) (g : Gating) : Path :=
  match g with
  | .suspended => .reading s.items.dwell
  | .active => if s.quiet then .reading s.items.dwell else .waiting s.counter

/-- The gating state at a frame's start (R54). -/
def Items.startGating (items : Items) : Gating := if items.quietGating then .active else .suspended

/-- A frame at its start: its first tracking reading is due, or with no TRACKING slot its solve stage passes at once into the
guard (R50, R51). -/
def State.newFrame (s : State) : Frame :=
  let g := s.items.startGating
  { t := s.trackingCount
    gating := g
    stage :=
      match s.trackPlan with
      | [] => .guarding guardTime
      | cur :: rest => .tracking cur rest [] (s.duePath g) }

/-- SCANNING with a frame that starts now (R49). -/
def State.startFrame (s : State) (sweep : Option Sweep) : State :=
  { s with engine := .scanning { start := s.counter, frame := some s.newFrame, sweep := sweep } }

/-- The run of frames replaced. -/
def State.setRun (s : State) (r : Run) : State := { s with engine := .scanning r }

/-- The search list: the tip and eraser channels of enabled kinds not then tracked, in ascending channel number (R19, R53). -/
def State.searchList (s : State) : List Chan :=
  (List.finRange 8).filter fun c =>
    (List.finRange 4).any fun k =>
      let e := s.items.kind k
      e.enabled && !s.kindTracked k && (e.tip == c || e.eraser == some c)

/-- The search budget of a frame (R52). -/
def searchBudget (items : Items) (t : Nat) : Nat := (items.framePeriod - 100 - 28 * items.dwell * t) / items.dwell

/-- The search cursor after a reading; `none` after the last reading of the sweep (R52, R53). -/
def Sweep.nextCursor (sw : Sweep) (items : Items) : Option SearchCursor :=
  let c := sw.cursor
  if c.coil + 1 < items.coils c.axis then some { c with coil := c.coil + 1 }
  else
    match c.axis with
    | .x => some { c with axis := .y, coil := 0 }
    | .y => if c.index + 1 < sw.list.length then some { index := c.index + 1, axis := .x, coil := 0 } else none

/-- A sweep at its beginning, with the cursor at the first X coil of the first channel (R53). -/
def Sweep.start (list : List Chan) : Sweep := { list := list, cursor := { index := 0, axis := .x, coil := 0 }, got := [] }

/-- The sweep in force at the end of a guard that found a slot FREE: the one in progress, or one begun now; `none` when the
search list is empty (R53). -/
def State.sweepAtGuard (s : State) (sweep : Option Sweep) : Option Sweep :=
  match sweep with
  | some sw => some sw
  | none =>
    match s.searchList with
    | [] => none
    | c :: rest => some (Sweep.start (c :: rest))

/-- What the guard's expiry does (R52, R53). -/
def State.endGuard (s : State) (r : Run) (f : Frame) : State :=
  if s.slot0.isTracking && s.slot1.isTracking then s.setRun { r with frame := none, sweep := none }
  else
    match s.sweepAtGuard r.sweep with
    | none => s.setRun { r with frame := none, sweep := none }
    | some sw =>
      let budget := searchBudget s.items f.t
      if budget = 0 then s.setRun { r with frame := none, sweep := some sw }
      else s.setRun { r with frame := some { f with stage := .searching budget (s.duePath f.gating) }, sweep := some sw }

/-- The solve stage: S0's work, then S1's, then the guard begins (R51), in one event. What falls together with S1's append may be
taken before it (R109, R128). -/
def State.solveStage (s : State) (r : Run) (f : Frame) (got : List (TrackRead × Reading)) : State :=
  (((s.solveSlot got r.start .s0).takeTogether []).solveSlot got r.start .s1).setRun
    { r with frame := some { f with stage := .guarding guardTime } }

/-- The end of a tracking reading (R50, R51). -/
def State.trackingEnd (s : State) (r : Run) (f : Frame) (cur : TrackRead) (rest : List TrackRead)
    (got : List (TrackRead × Reading)) (reading : Reading) : State :=
  let taken := got ++ [(cur, reading)]
  match rest with
  | next :: later => s.setRun { r with frame := some { f with stage := .tracking next later taken (s.duePath f.gating) } }
  | [] => s.solveStage r f taken

/-- The end of a search reading: the sweep keeps it; a complete sweep is evaluated and ends, and the frame with it; a spent
budget ends the frame (R49, R52, R53). -/
def State.searchEnd (s : State) (r : Run) (f : Frame) (budget : Nat) (sw : Sweep) (reading : Reading) : State :=
  let kept : Sweep :=
    match sw.list[sw.cursor.index]? with
    | some c => { sw with got := sw.got ++ [⟨c, sw.cursor.axis, sw.cursor.coil, reading⟩] }
    | none => sw
  match kept.nextCursor s.items with
  | none => (s.evaluateSweep kept).setRun { r with frame := none, sweep := none }
  | some c =>
    let moved : Sweep := { kept with cursor := c }
    if budget ≤ 1 then s.setRun { r with frame := none, sweep := some moved }
    else
      s.setRun { r with
        frame := some { f with stage := .searching (budget - 1) (s.duePath f.gating) }, sweep := some moved }

/-- The numbers a reading hands over; a reading whose amplitude is 0 gives phase 0 (R3). -/
def readingOf (amplitude : BitVec 16) (phase : BitVec 12) : Reading :=
  { amp := amplitude.toNat, phase := if amplitude = 0 then 0 else phase.toNat }

/-- READING_END (R3, R50 to R53): due when a reading in progress has no time left. -/
def State.readingEnd (s : State) (reading : Reading) : State :=
  match s.engine with
  | .scanning r =>
    match r.frame with
    | some f =>
      match f.stage with
      | .tracking cur rest got (.reading 0) => s.trackingEnd r f cur rest got reading
      | .searching budget (.reading 0) =>
        match r.sweep with
        | some sw => s.searchEnd r f budget sw reading
        | none => s
      | .tracking _ _ _ _ | .searching _ _ | .guarding _ => s
    | none => s
  | .halted | .checking _ | .idle => s

/-- GUARD_EXPIRY (R52): due when the guard has no time left. -/
def State.guardExpiry (s : State) : State :=
  match s.engine with
  | .scanning r =>
    match r.frame with
    | some f =>
      match f.stage with
      | .guarding 0 => s.endGuard r f
      | .guarding _ | .tracking _ _ _ _ | .searching _ _ => s
    | none => s
  | .halted | .checking _ | .idle => s

/-- FRAME_START (R49): due in SCANNING when the previous frame has ended and the frame period has passed since its start, by
the modulo distance. -/
def State.frameStart (s : State) : State :=
  match s.engine with
  | .scanning r =>
    match r.frame with
    | none => if s.items.framePeriod ≤ seqDist r.start s.counter then s.startFrame r.sweep else s
    | some _ => s
  | .halted | .checking _ | .idle => s

/-- The stage with its waiting reading begun (R54). -/
def Stage.beginWaiting (st : Stage) (dwell : Nat) : Stage :=
  match st with
  | .tracking cur rest got (.waiting _) => .tracking cur rest got (.reading dwell)
  | .searching budget (.waiting _) => .searching budget (.reading dwell)
  | .tracking cur rest got (.reading left) => .tracking cur rest got (.reading left)
  | .searching budget (.reading left) => .searching budget (.reading left)
  | .guarding left => .guarding left

/-- When the quiet timer of the waiting reading was started; `none` when no reading waits (R54). -/
def Stage.waitingSince : Stage → Option Time
  | .tracking _ _ _ (.waiting since) => some since
  | .searching _ (.waiting since) => some since
  | .tracking _ _ _ (.reading _) | .searching _ (.reading _) | .guarding _ => none

/-- QUIET_RISE (R54): the quiet timer is discarded and a waiting reading begins. -/
def State.quietRise (s : State) : State :=
  let high : State := { s with quiet := true }
  match s.engine with
  | .scanning r =>
    match r.frame with
    | some f => high.setRun { r with frame := some { f with stage := f.stage.beginWaiting s.items.dwell } }
    | none => high
  | .halted | .checking _ | .idle => high

/-- QUIET_TIMER_EXPIRY (R54): due when a reading has waited for the quiet timeout, by the modulo distance of R165. Gating is
suspended for the frame, QUIET is set pending on both ports and the reading begins. -/
def State.quietTimerExpiry (s : State) : State :=
  match s.engine with
  | .scanning r =>
    match r.frame with
    | some f =>
      match f.stage.waitingSince with
      | some since =>
        if s.items.quietTimeout ≤ seqDist since s.counter then
          (s.raiseBoth .quiet).setRun
            { r with frame := some { f with gating := .suspended, stage := f.stage.beginWaiting s.items.dwell } }
        else s
      | none => s
    | none => s
  | .halted | .checking _ | .idle => s

/-! ## The meanings of the scan's events -/

/-- FRAME_START. -/
def execFrameStart (s : State) : Host.Outcome State Fault Refusal := .next s.frameStart

/-- READING_END. -/
def execReadingEnd (amplitude : BitVec 16) (phase : BitVec 12) (s : State) : Host.Outcome State Fault Refusal :=
  .next (s.readingEnd (readingOf amplitude phase))

/-- GUARD_EXPIRY. -/
def execGuardExpiry (s : State) : Host.Outcome State Fault Refusal := .next s.guardExpiry

/-- QUIET_RISE. -/
def execQuietRise (s : State) : Host.Outcome State Fault Refusal := .next s.quietRise

/-- QUIET_FALL: a reading that becomes due afterwards waits; one that has begun runs its full dwell (R54). -/
def execQuietFall (s : State) : Host.Outcome State Fault Refusal := .next { s with quiet := false }

/-- QUIET_TIMER_EXPIRY. -/
def execQuietTimerExpiry (s : State) : Host.Outcome State Fault Refusal := .next s.quietTimerExpiry

end Sys2Proof.Machine
end

