-- ==== Sys2Proof/Machine/Engine.lean ====
section
/-!
DEFINITION. The scan engine's states, the hold and run sets and the check (spec 03 sections 3.1 and 3.2, spec 01 section 1.4):
HOLD, RELEASE, RUN, STOP, CHECK REPORT, the withdrawal of a port, and the end of a coil sensing.
-/

namespace Sys2Proof.Machine

/-- A change of engine state sets ENGINE pending on both ports (R33). -/
def State.toEngine (s : State) (e : Engine) : State := ({ s with engine := e } : State).raiseBoth .engine

/-- SCANNING is entered: the first frame starts at this moment, with no sweep in progress (R49, R53). -/
def State.enterScanning (s : State) : State := (s.startFrame none).raiseBoth .engine

/-! ## The check -/

/-- The check completes (R43): FAILED to HALTED with CHECK pending on both ports; PASSED to SCANNING when the run set is not
empty, else to IDLE. -/
def State.completeCheck (s : State) (failed : Bool) : State :=
  if failed then
    (({ s with report := { s.report with outcome := .failed } } : State).toEngine .halted).raiseBoth .check
  else
    let passed : State := { s with report := { s.report with outcome := .passed } }
    if passed.run.isEmpty then passed.toEngine .idle else passed.enterScanning

/-- Whether the array check is a FULL sensing pass: in mode FULL, and in REUSE when the map is INVALID (R9). -/
def State.sensesArray (s : State) : Bool := s.items.checkMode == .full || !s.map.valid

/-- The array check starts (R9): a FULL sensing pass makes the map INVALID and empty (R10); a derivation completes at once
(R13). -/
def State.startArrayCheck (s : State) : State :=
  if s.sensesArray then { s with map := DefectMap.invalid, engine := .checking SensePass.start }
  else
    let fs := deriveFindings s.map s.items.maxDefects
    ({ s with report := s.report.addAll fs } : State).completeCheck (fs.any Finding.isFail)

/-- The engine enters CHECKING (R40): the report is cleared, the configuration check runs, and unless it failed the array check
starts. ENGINE is raised by the entry, and again by each change that follows within this event (R33). -/
def State.startCheck (s : State) : State :=
  let fs := configFindings s.items s.curves
  let checked : State :=
    ({ s with report := ({ outcome := .running, findings := [], truncated := false } : Report).addAll fs } : State).raiseBoth
      .engine
  if fs.any Finding.isFail then checked.completeCheck true else checked.startArrayCheck

/-- The check is aborted by a HOLD (R14, R45): the outcome becomes ABORTED and the map INVALID and empty. -/
def State.abortCheck (s : State) : State :=
  { s with report := { s.report with outcome := .aborted }, map := DefectMap.invalid }

/-- A coil of a FULL sensing pass is classified (R10, R11): the map, the report and the pass after it. -/
def State.classifyCoil (s : State) (pass : SensePass) (level : Nat) : State × SensePass :=
  match classify level with
  | none => (s, { pass with prevBad := false })
  | some reason =>
    let defect : Defect := { coil := pass.coil, reason := reason }
    let listed := (s.map.axis pass.axis).add defect
    let tooMany := makesTooMany listed.total s.items.maxDefects pass.tooMany
    let fs := defectFindings pass.axis defect pass.prevBad tooMany
    ({ s with map := s.map.setAxis pass.axis listed, report := s.report.addAll fs },
     { pass with prevBad := true, tooMany := pass.tooMany || tooMany, failed := pass.failed || fs.any Finding.isFail })

/-- COIL_SENSING_END (R10 to R12, R43): due when the sensing has no time left. After the last Y coil the map becomes VALID and
the check completes; otherwise the next coil is sensed. -/
def State.coilSensingEnd (s : State) (level : Nat) : State :=
  match s.engine with
  | .checking pass =>
    if pass.left = 0 then
      let after := s.classifyCoil pass level
      match pass.nextCoil s.items with
      | some (a, c) =>
        let sameAxis := decide (a = pass.axis)
        let next : SensePass := { after.2 with
          axis := a, coil := c, left := senseTime
          prevBad := sameAxis && after.2.prevBad, tooMany := sameAxis && after.2.tooMany }
        { after.1 with engine := .checking next }
      | none => ({ after.1 with map := { after.1.map with valid := true } } : State).completeCheck after.2.failed
    else s
  | .halted | .idle | .scanning _ => s

/-! ## The hold and run sets -/

/-- Frames stop by port `p` and the engine goes to `e` (R55). -/
def State.stopFrames (s : State) (p : PortId) (r : Run) (cause : BreakCause) (e : Engine) : State :=
  (s.closeFrames p r.start cause).toEngine e

/-- HOLD from `p` takes effect (R34). -/
def State.holdEffect (s : State) (p : PortId) : State :=
  let joined : State := { s with hold := s.hold.insert p }
  match s.engine with
  | .halted => joined
  | .checking _ => joined.abortCheck.toEngine .halted
  | .idle => joined.toEngine .halted
  | .scanning r => joined.stopFrames p r .halted .halted

/-- RELEASE from a holder `p` takes effect (R35). -/
def State.releaseEffect (s : State) (p : PortId) : State :=
  let left : State := { s with hold := s.hold.erase p }
  if left.hold.isEmpty then left.startCheck else left

/-- RUN from `p` takes effect (R36). -/
def State.runEffect (s : State) (p : PortId) : State :=
  let joined : State := { s with run := s.run.insert p }
  match s.engine with
  | .idle => joined.enterScanning
  | .halted | .checking _ | .scanning _ => joined

/-- STOP from `p` takes effect (R37). -/
def State.stopEffect (s : State) (p : PortId) : State :=
  let left : State := { s with run := s.run.erase p }
  match s.engine with
  | .scanning r => if left.run.isEmpty then left.stopFrames p r .stopped .idle else left
  | .halted | .checking _ | .idle => left

/-- Port `p` is withdrawn from both sets as one event (R38). -/
def State.withdraw (s : State) (p : PortId) : State :=
  if s.hold.has p || s.run.has p then
    let left : State := { s with hold := s.hold.erase p, run := s.run.erase p }
    match s.engine with
    | .halted => if s.hold.has p && left.hold.isEmpty then left.startCheck else left
    | .scanning r => if left.run.isEmpty then left.stopFrames p r .stopped .idle else left
    | .checking _ | .idle => left
  else s

/-! ## The requests -/

/-- The response to the engine commands: state, hold set, run set (R39). -/
def State.engineReply (s : State) (result : ResultCode) : Reply :=
  { result := result, fields := [.byte s.engine.code, .u8 s.hold.toByte, .u8 s.run.toByte] }

/-- HOLD (R34, R39). -/
def State.answerHold (s : State) (p : PortId) : Answer :=
  let t := s.holdEffect p
  { state := t, reply := t.engineReply .ok }

/-- RELEASE (R35, R39). -/
def State.answerRelease (s : State) (p : PortId) : Answer :=
  if s.hold.has p then
    let t := s.releaseEffect p
    { state := t, reply := t.engineReply .ok }
  else { state := s, reply := s.engineReply .notHolding }

/-- RUN (R36, R39). -/
def State.answerRun (s : State) (p : PortId) : Answer :=
  let t := s.runEffect p
  { state := t, reply := t.engineReply .ok }

/-- STOP (R37, R39). -/
def State.answerStop (s : State) (p : PortId) : Answer :=
  let t := s.stopEffect p
  { state := t, reply := t.engineReply .ok }

/-- The five bytes of a finding: kind, severity, axis, index, second index. -/
def Finding.fields (f : Finding) : List Field :=
  [.byte f.kind.code, .byte f.isFail.toNat, .byte (axisCode f.axis), .byte (f.index.getD 0), .byte (f.index2.getD 0)]

/-- CHECK REPORT (R44). -/
def State.answerCheckReport (s : State) : Answer :=
  { state := s
    reply :=
      { result := .ok
        fields := [.byte s.report.outcome.code, .byte s.report.truncated.toNat, .byte s.report.findings.length]
          ++ s.report.findings.flatMap Finding.fields } }

/-! ## The meanings -/

/-- HOLD. -/
def execHold (p : PortId) (s : State) : Host.Outcome State Fault Refusal := .next (s.onRequest p fun t => t.answerHold p)

/-- RELEASE. -/
def execRelease (p : PortId) (s : State) : Host.Outcome State Fault Refusal :=
  .next (s.onRequest p fun t => t.answerRelease p)

/-- RUN. -/
def execRun (p : PortId) (s : State) : Host.Outcome State Fault Refusal := .next (s.onRequest p fun t => t.answerRun p)

/-- STOP. -/
def execStop (p : PortId) (s : State) : Host.Outcome State Fault Refusal := .next (s.onRequest p fun t => t.answerStop p)

/-- CHECK REPORT. -/
def execCheckReport (p : PortId) (s : State) : Host.Outcome State Fault Refusal :=
  .next (s.onRequest p State.answerCheckReport)

/-- COIL_SENSING_END. -/
def execCoilSensingEnd (level : BitVec 10) (s : State) : Host.Outcome State Fault Refusal :=
  .next (s.coilSensingEnd level.toNat)

end Sys2Proof.Machine
end

