-- ==== Sys2Proof/Machine/Gate.lean ====
section
/-!
DEFINITION. Configuration writes and reads (R46, R47, R99, R100) and the loading of curves (spec 02 sections 2.5 and 2.6).
-/

namespace Sys2Proof.Machine

/-- Whether any capture entry is not EMPTY (R100). -/
def State.capturesPresent (s : State) : Bool := s.entries.toList.any Option.isSome

/-- The response to CONFIG WRITE and CONFIG READ: item id and value (R46, R47). -/
def configReply (result : ResultCode) (id : Byte) (value : Nat) : Reply :=
  { result := result, fields := [.u8 id, .half value] }

/-- An accepted value stored, with the further effects of the owning block: a coil count makes the map INVALID and empty (R2);
a ring geometry item is fitted (R99) and flushes the ring (R100). -/
def State.storeItem (s : State) (i : Item) (v : Nat) : State :=
  let stored := s.items.set i v
  if i.isGeometry then ({ s with items := stored.fitRing } : State).geometryFlush
  else if i.isCoilCount then { s with items := stored, map := DefectMap.invalid }
  else { s with items := stored }

/-- Whether storing an accepted value brought something within range: the value itself, or the bank count (R46, R99). -/
def State.itemClamped (s : State) (i : Item) (written v : Nat) : Bool :=
  v != written || (i.isGeometry && decide (8 < (s.items.set i v).ringBase + (s.items.set i v).ringBanks))

/-- CONFIG WRITE (R46), its tests in order. A refusal shows the item id of the request, as R46 says, and the unchanged value, or
0 where the id names no item (log 9). -/
def State.answerConfigWrite (s : State) (p : PortId) (id : Byte) (value : Half) : Answer :=
  let shown := ((Item.ofId id).map s.items.get).getD 0
  let refuse (rc : ResultCode) : Answer := { state := s, reply := configReply rc id shown }
  if s.engine ≠ .halted then refuse .refusedState
  else if !s.hold.has p then refuse .notHolding
  else
    match Item.ofId id with
    | none => refuse .badItem
    | some i =>
      if i.isGeometry && s.capturesPresent then refuse .capturesPresent
      else
        match i.accept value.toNat with
        | none => refuse .badValue
        | some v =>
          let t := s.storeItem i v
          { state := t, reply := configReply (.okUnless (s.itemClamped i value.toNat v)) id (t.items.get i) }

/-- CONFIG READ (R47). An id that names no item is answered with zeros: R47 gives such a refusal the value 0 and no item id, so
the id field is zero too (R149). -/
def State.answerConfigRead (s : State) (id : Byte) : Answer :=
  match Item.ofId id with
  | none => { state := s, reply := configReply .badItem 0 0 }
  | some i => { state := s, reply := configReply .ok id (s.items.get i) }

/-! ## Curves -/

/-- A curve replaced. -/
def State.setCurve (s : State) (c : Fin 4) (x : Curve) : State := { s with curves := s.curves.set c x }

/-- The response to CURVE BEGIN and CURVE KNOT: curve state and load pointer (R24, R26). -/
def curveReply (result : ResultCode) (c : Curve) : Reply :=
  { result := result, fields := [.byte c.code, .byte c.pointer] }

/-- The response when the curve number names no curve: state and pointer read as zero (R24, R26). -/
def noCurveReply : Reply := { result := .badValue, fields := [.byte 0, .byte 0] }

/-- The curve a number names as a response shows it, before any effect. -/
def State.curveShown (s : State) (result : ResultCode) (number : Byte) : Reply :=
  match fourOf number with
  | some c => curveReply result s.curves[c]
  | none => { noCurveReply with result := result }

/-- Whether a curve is LOADING under the other port while that port holds the part (R24). -/
def State.loadedByHolder (s : State) (p : PortId) (c : Curve) : Bool :=
  c.owner == some p.other && s.hold.has p.other

/-- CURVE BEGIN (R24, R25). -/
def State.answerCurveBegin (s : State) (p : PortId) (number count : Byte) : Answer :=
  if s.engine ≠ .halted then { state := s, reply := s.curveShown .refusedState number }
  else if !s.hold.has p then { state := s, reply := s.curveShown .notHolding number }
  else
    match fourOf number with
    | none => { state := s, reply := noCurveReply }
    | some c =>
      if s.loadedByHolder p s.curves[c] then { state := s, reply := curveReply .notOwner s.curves[c] }
      else
        let n := clampNat 2 16 count.toNat
        let begun : Curve := .loading n [] (some p)
        { state := s.setCurve c begun, reply := curveReply (.okUnless (n != count.toNat)) begun }

/-- The curve after a knot is stored: LOADED without owner when the pointer reaches the knot count (R27). -/
def storeKnot (count : Nat) (knots : List Knot) (owner : Option PortId) (k : Knot) : Curve :=
  if (knots ++ [k]).length = count then .loaded (knots ++ [k]) else .loading count (knots ++ [k]) owner

/-- CURVE KNOT (R26, R27). It is accepted in every HALTED, with or without a holder. DESIGN CHOICE (log 15): after a RELEASE
whose check fails at once the part is HALTED and not held; R28 says that the owner's knots get REFUSED_STATE until the part is
held again, while the tests of R26 have none for a holder; the model follows R26. -/
def State.answerCurveKnot (s : State) (p : PortId) (number : Byte) (input output : Half) : Answer :=
  if s.engine ≠ .halted then { state := s, reply := s.curveShown .refusedState number }
  else
    match fourOf number with
    | none => { state := s, reply := noCurveReply }
    | some c =>
      match s.curves[c] with
      | .loaded _ => { state := s, reply := curveReply .curveFull s.curves[c] }
      | .empty => { state := s, reply := curveReply .notOwner s.curves[c] }
      | .loading count knots owner =>
        if owner = some p then
          let k : Knot := { input := clampNat 0 4095 input.toNat, output := clampNat 0 8191 output.toNat }
          let after := storeKnot count knots owner k
          { state := s.setCurve c after
            reply := curveReply (.okUnless (k.input != input.toNat || k.output != output.toNat)) after }
        else { state := s, reply := curveReply .notOwner s.curves[c] }

/-- CURVE READ (R31). -/
def State.answerCurveRead (s : State) (number : Byte) : Answer :=
  match fourOf number with
  | none => { state := s, reply := { result := .badValue, fields := [.byte 0, .byte 0, .byte 0, .byte 0] } }
  | some c =>
    let x := s.curves[c]
    { state := s
      reply :=
        { result := .ok
          fields := [.byte x.code, .byte x.count, .byte x.pointer, .byte (ownerCode x.owner)]
            ++ x.knots.flatMap fun k => [.half k.input, .half k.output] } }

/-! ## The meanings -/

/-- CONFIG WRITE. -/
def execConfigWrite (p : PortId) (id : Byte) (value : Half) (s : State) : Host.Outcome State Fault Refusal :=
  .next (s.onRequest p fun t => t.answerConfigWrite p id value)

/-- CONFIG READ. -/
def execConfigRead (p : PortId) (id : Byte) (s : State) : Host.Outcome State Fault Refusal :=
  .next (s.onRequest p fun t => t.answerConfigRead id)

/-- CURVE BEGIN. -/
def execCurveBegin (p : PortId) (number count : Byte) (s : State) : Host.Outcome State Fault Refusal :=
  .next (s.onRequest p fun t => t.answerCurveBegin p number count)

/-- CURVE KNOT. -/
def execCurveKnot (p : PortId) (number : Byte) (input output : Half) (s : State) : Host.Outcome State Fault Refusal :=
  .next (s.onRequest p fun t => t.answerCurveKnot p number input output)

/-- CURVE READ. -/
def execCurveRead (p : PortId) (number : Byte) (s : State) : Host.Outcome State Fault Refusal :=
  .next (s.onRequest p fun t => t.answerCurveRead number)

end Sys2Proof.Machine
end

