-- ==== Sys2Proof/Machine/Captures.lean ====
section
/-!
DEFINITION. The capture unit (spec 08): CAPTURE with its triggers, the copies, overtaking, readout, status and release, and the
TSYNC line.
-/

namespace Sys2Proof.Machine

/-! ## CAPTURE -/

/-- Whether a bank is one of the ring banks (R98). -/
def Items.isRingBank (s : Items) (b : Fin 8) : Bool := decide (s.ringBase ≤ b.val) && decide (b.val < s.ringBase + s.ringBanks)

/-- Whether an entry that is not EMPTY holds a bank. -/
def State.bankHeld (s : State) (b : Fin 8) : Bool := s.entries.toList.any fun e => e.any fun h => h.bank == b

/-- The lowest-numbered bank outside the ring that no entry holds (R130). -/
def State.freeBank (s : State) : Option (Fin 8) :=
  (List.finRange 8).find? fun b => !s.items.isRingBank b && !s.bankHeld b

/-- The lowest-numbered EMPTY entry (R131). -/
def State.freeEntry (s : State) : Option (Fin 4) := (List.finRange 4).find? fun e => (s.entry e).isNone

/-- The tests of R131 on the parameters, in order; `none` when all pass. The test for a free entry and bank comes after. -/
def State.captureTest (s : State) (trigger : Option Trigger) (first : Word) (second : Half) (drive : Byte) :
    Option ResultCode :=
  match trigger with
  | none => some .badValue
  | some g =>
    if drive ≠ 0 ∧ drive ≠ 1 then some .badValue
    else if g = .absolute then
      if second.toNat < 1 ∨ 512 < second.toNat then some .badValue
      else if s.within first s.ring.o s.ring.w then none else some .outOfRange
    else if 511 < first.toNat ∨ 511 < second.toNat ∨ first.toNat + second.toNat < 1 ∨ 512 < first.toNat + second.toNat then
      some .badValue
    else none

/-- An entry as it is armed: the look-back and look-ahead present, the window absent (R129). -/
def armedEntry (p : PortId) (g : Trigger) (first : Word) (second : Half) (bank : Fin 8) : Held :=
  { stage := .armed, owner := p, trigger := g, reach := some (first.toNat, second.toNat), window := none
    copied := 0, readPos := 0, bank := bank }

/-- An ABSOLUTE entry: FILLING from its first sequence and count, without look-back and look-ahead (R137). -/
def absoluteEntry (p : PortId) (first : Word) (second : Half) (bank : Fin 8) : Held :=
  { stage := .filling, owner := p, trigger := .absolute, reach := none
    window := some { start := first, target := second.toNat, truncated := false }
    copied := 0, readPos := 0, bank := bank }

/-- An accepted CAPTURE acts by its trigger (R131): IMMEDIATE triggers at once, SYNC and CONTACT arm, a driven SYNC starts the
pulse timer (R135), ABSOLUTE goes straight to FILLING. -/
def State.startCapture (s : State) (p : PortId) (g : Trigger) (first : Word) (second : Half) (drive : Byte) (e : Fin 4)
    (bank : Fin 8) : State :=
  match g with
  | .immediate => s.triggerHeld e (armedEntry p g first second bank)
  | .sync =>
    let armed := s.setEntry e (some (armedEntry p g first second bank))
    if drive = 1 then { armed with pulse := some pulseTime } else armed
  | .contact => s.setEntry e (some (armedEntry p g first second bank))
  | .absolute => s.setEntry e (some (absoluteEntry p first second bank))

/-- The start sequence of an entry as a response shows it; absent reads as zero. -/
def Held.startShown (h : Held) : Seq := (h.window.map Window.start).getD 0

/-- The target length of an entry as a response shows it; absent reads as zero. -/
def Held.targetShown (h : Held) : Nat := (h.window.map Window.target).getD 0

/-- The response to an accepted CAPTURE: entry number, state, start, target (R131). -/
def captureReply (e : Fin 4) (x : Option Held) : Reply :=
  { result := .ok
    fields := [.byte e.val, .byte (entryCode x), .u32 ((x.map Held.startShown).getD 0), .half ((x.map Held.targetShown).getD 0)] }

/-- The response to a refused CAPTURE: the fields after the result read as zero (R131). -/
def captureRefusal (result : ResultCode) : Reply :=
  { result := result, fields := [.byte 0, .byte 0, .u32 0, .half 0] }

/-- CAPTURE (R131). -/
def State.answerCapture (s : State) (p : PortId) (trigger : Byte) (first : Word) (second : Half) (drive : Byte) : Answer :=
  match s.captureTest (Trigger.ofByte trigger) first second drive, Trigger.ofByte trigger with
  | some rc, _ => { state := s, reply := captureRefusal rc }
  | none, none => { state := s, reply := captureRefusal .badValue }
  | none, some g =>
    match s.freeEntry, s.freeBank with
    | some e, some bank =>
      let t := s.startCapture p g first second drive e bank
      { state := t, reply := captureReply e (t.entry e) }
    | _, _ => { state := s, reply := captureRefusal .noStore }

/-! ## Filling (R138 to R140) -/

/-- An entry after a copy: READY with CAPTURE raised when the copied count reaches the target length, else FILLING (R138). -/
def State.afterCopy (s : State) (e : Fin 4) (h : Held) (target : Nat) : State :=
  if h.copied + 1 = target then
    (s.setEntry e (some { h with stage := .ready, copied := h.copied + 1, readPos := 0 })).raise h.owner .capture
  else s.setEntry e (some { h with copied := h.copied + 1 })

/-- CAPTURE_COPY of entry `e` (R138): a held next record is copied into the next slot of the bank. A next record that is older
than O has been overtaken (R140); one not yet written is awaited (R139). -/
def State.captureCopy (s : State) (e : Fin 4) : State :=
  match s.entry e with
  | some h =>
    match h.stage, h.window with
    | .filling, some w =>
      let n := w.start + BitVec.ofNat 32 h.copied
      match s.ringRead n with
      | some r =>
        ({ s with store := Store.write s.store (bankAddr h.bank.val h.copied) r } : State).afterCopy e h w.target
      | none => if s.older n s.ring.o then s.failEntry e h .overtaken else s
    | _, _ => s
  | none => s

/-! ## CAPTURE READ -/

/-- The header of a CAPTURE READ: result, count, and a skipped value that is always 0 (R142). -/
def captureReadReply (result : ResultCode) (count : Nat) : Reply :=
  { result := result, fields := [.byte count, .half 0] }

/-- CAPTURE READ (R142). -/
def State.answerCaptureRead (s : State) (p : PortId) (entry n fromStart : Byte) : Answer :=
  let refuse (rc : ResultCode) : Answer := { state := s, reply := captureReadReply rc 0 }
  match fourOf entry with
  | none => refuse .badValue
  | some e =>
    if fromStart ≠ 0 ∧ fromStart ≠ 1 then refuse .badValue
    else
      match s.entry e with
      | none => refuse .notOwner
      | some h =>
        if h.owner ≠ p then refuse .notOwner
        else if h.stage ≠ .ready then refuse .notReady
        else
          let pos := if fromStart = 1 then 0 else h.readPos
          let k := min (min n.toNat maxRead) (h.targetShown - pos)
          { state := s.setEntry e (some { h with readPos := pos })
            reply := captureReadReply (.okUnless (decide (maxRead < n.toNat))) k
            xfer := .capture e true (h.startShown + BitVec.ofNat 32 pos) k 0 none }

/-- What a place of a CAPTURE READ sends: the record at the entry's read position, or a VOID filler with the sequence the place
would have sent once the entry has been released (R143). -/
def State.capturePlace (s : State) (e : Fin 4) (live : Bool) (seq : Seq) : Place :=
  match live, s.entry e with
  | true, some h =>
    match Store.read s.store (bankAddr h.bank.val h.readPos) with
    | some r => .stroke r
    | none => .void seq
  | _, _ => .void seq

/-- CAPTURE_READ_PLACE_BEGIN (R143). -/
def State.captureReadPlaceBegin (s : State) (p : PortId) : State :=
  match (s.port p).framing with
  | .response left resp =>
    match resp.xfer with
    | .capture e live first k done none =>
      if done < k then
        s.setResp p left
          { resp with
            outBits := resp.placeStart done
            xfer := .capture e live first k done (some (s.capturePlace e live (first + BitVec.ofNat 32 done))) }
      else s
    | .capture _ _ _ _ _ (some _) | .read _ _ _ | .none => s
  | .idle | .request _ _ | .discarding => s

/-- The read position of an entry increases by 1 when a place has gone out (R143). -/
def State.advanceRead (s : State) (e : Fin 4) (live : Bool) : State :=
  match live, s.entry e with
  | true, some h => s.setEntry e (some { h with readPos := h.readPos + 1 })
  | _, _ => s

/-- CAPTURE_READ_RECORD_COMPLETE (R143). -/
def State.captureReadRecordComplete (s : State) (p : PortId) : State :=
  match (s.port p).framing with
  | .response _ resp =>
    match resp.xfer with
    | .capture e live first k done (some _) =>
      (s.advanceRead e live).setResp p transactionTime
        { resp with outBits := resp.placeStart (done + 1), xfer := .capture e live first k (done + 1) none }
    | .capture _ _ _ _ _ none | .read _ _ _ | .none => s
  | .idle | .request _ _ | .discarding => s

/-! ## CAPTURE STATUS and CAPTURE RELEASE -/

/-- The fields of one entry in CAPTURE STATUS; an absent field reads as zero (R144). -/
def entryFields : Option Held → List Field
  | none => [.byte 0, .byte 0, .byte 0, .byte 0, .u32 0, .half 0, .half 0, .half 0, .byte 0, .byte 0]
  | some h =>
    [.byte h.stage.code, .byte (ownerCode (some h.owner)), .byte h.trigger.code, .byte h.bank.val, .u32 h.startShown,
     .half h.targetShown, .half h.copied, .half h.readPos, .byte ((h.window.map Window.truncated).getD false).toNat,
     .byte h.stage.failCode]

/-- CAPTURE STATUS (R144). -/
def State.answerCaptureStatus (s : State) : Answer :=
  { state := s, reply := { result := .ok, fields := s.entries.toList.flatMap entryFields } }

/-- CAPTURE RELEASE (R144). -/
def State.answerCaptureRelease (s : State) (p : PortId) (entry : Byte) : Answer :=
  let refuse (rc : ResultCode) : Answer := { state := s, reply := { result := rc, fields := [.byte 0, .byte 0] } }
  match fourOf entry with
  | none => refuse .badValue
  | some e =>
    match s.entry e with
    | none => refuse .notOwner
    | some h =>
      if h.owner ≠ p then refuse .notOwner
      else { state := s.releaseEntry e, reply := { result := .ok, fields := [.byte e.val, .byte 0] } }

/-! ## The meanings -/

/-- CAPTURE. -/
def execCapture (p : PortId) (trigger : Byte) (first : Word) (second : Half) (drive : Byte) (s : State) :
    Host.Outcome State Fault Refusal :=
  .next (s.onRequest p fun t => t.answerCapture p trigger first second drive)

/-- CAPTURE STATUS. -/
def execCaptureStatus (p : PortId) (s : State) : Host.Outcome State Fault Refusal :=
  .next (s.onRequest p State.answerCaptureStatus)

/-- CAPTURE READ. -/
def execCaptureRead (p : PortId) (entry n fromStart : Byte) (s : State) : Host.Outcome State Fault Refusal :=
  .next (s.onRequest p fun t => t.answerCaptureRead p entry n fromStart)

/-- CAPTURE RELEASE. -/
def execCaptureRelease (p : PortId) (entry : Byte) (s : State) : Host.Outcome State Fault Refusal :=
  .next (s.onRequest p fun t => t.answerCaptureRelease p entry)

/-- CAPTURE_COPY. -/
def execCaptureCopy (entry : Fin 4) (s : State) : Host.Outcome State Fault Refusal := .next (s.captureCopy entry)

/-- CAPTURE_READ_PLACE_BEGIN. -/
def execCaptureReadPlaceBegin (p : PortId) (s : State) : Host.Outcome State Fault Refusal :=
  .next (s.captureReadPlaceBegin p)

/-- CAPTURE_READ_RECORD_COMPLETE. -/
def execCaptureReadRecordComplete (p : PortId) (s : State) : Host.Outcome State Fault Refusal :=
  .next (s.captureReadRecordComplete p)

/-- TSYNC_FALL: every ARMED SYNC entry triggers, with the same W and O (R132, R134). -/
def execTsyncFall (s : State) : Host.Outcome State Fault Refusal := .next (s.forEntries (State.triggerArmed .sync))

/-- TSYNC_PULSE_EXPIRY: due when the pulse timer has no time left; the driver becomes RELEASED (R135). -/
def execTsyncPulseExpiry (s : State) : Host.Outcome State Fault Refusal :=
  .next (if s.pulse = some 0 then { s with pulse := none } else s)

end Sys2Proof.Machine
end

