-- ==== Sys2Proof/Machine/Ports.lean ====
section
/-!
DEFINITION. The client ports (spec 09) and attention (spec 10): framing, port settings, lapse, PORT RESET, STATUS, ACK, unknown
command codes; full reset; and the microsecond tick with the timers it runs down.
-/

namespace Sys2Proof.Machine

/-! ## Framing (R147, R150, R151, R154) -/

/-- The lapse timer as a non-zero timeout starts it, or STOPPED for a timeout of 0 (R154). -/
def lapseStart (timeout : Nat) : Option Nat := if timeout = 0 then none else some (timeout * lapseUnit)

/-- CS_FALL (R147, R151, R154): a transaction begins on a port whose CS was high. -/
def State.csFall (s : State) (p : PortId) : State :=
  match (s.port p).framing with
  | .idle =>
    s.updPort p fun q =>
      { q with framing := .request transactionTime {}, miso := some false, lapseTimer := lapseStart q.settings.lapse }
  | .request _ _ | .response _ _ | .discarding => s

/-- CS_RISE (R150): the transaction ends and the port returns to IDLE. -/
def State.csRise (s : State) (p : PortId) : State := s.updPort p fun q => { q with framing := .idle, miso := none }

/-- TRANSACTION_ABANDONED (R151): due when nothing is left of the 2 ms. The transaction ends as at a CS rise, and the port is
DISCARDING. -/
def State.abandon (s : State) (p : PortId) : State :=
  match (s.port p).framing with
  | .request 0 _ | .response 0 _ => s.updPort p fun q => { q with framing := .discarding, miso := some false }
  | .request _ _ | .response _ _ | .idle | .discarding => s

/-! ## Lapse and PORT RESET (R155, R157) -/

/-- Whether port `p` is engaged (R155). -/
def State.engaged (s : State) (p : PortId) : Bool :=
  s.hold.has p || s.run.has p || (s.entries.toList.any fun e => e.any fun h => h.owner == p)
    || s.curves.toList.any fun c => c.owner == some p

/-- What a port loses by a lapse or a PORT RESET, in the order of R155 and R157: both sets, its captures, its curves. -/
def State.dropClaims (s : State) (p : PortId) : State := ((s.withdraw p).releaseOwned p).orphanCurves p

/-- Port `p` lapses (R155). -/
def State.lapse (s : State) (p : PortId) : State := ((s.dropClaims p).raise p .lapse).raise p.other .peer

/-- LAPSE_TIMER_EXPIRY (R154, R155): due when the timer is RUNNING with nothing left. -/
def State.lapseTimerExpiry (s : State) (p : PortId) : State :=
  if (s.port p).lapseTimer = some 0 then
    let stopped := s.updPort p fun q => { q with lapseTimer := none }
    if s.engaged p then stopped.lapse p else stopped
  else s

/-- A port's own state after PORT RESET: cursor at W, settings and lapse timer at their reset values, pending set cleared
(R112, R152, R157 steps 4 to 6). -/
def Port.afterPortReset (q : Port) (w : Seq) : Port :=
  { q with cursor := Cursor.resetAt w, settings := Settings.reset, lapseTimer := none, latched := {} }

/-- PORT RESET (R157). -/
def State.answerPortReset (s : State) (p : PortId) : Answer :=
  let dropped := s.dropClaims p
  { state := (dropped.updPort p fun q => q.afterPortReset dropped.ring.w).raise p.other .peer
    reply := { result := .ok, fields := [.u32 dropped.ring.w] } }

/-! ## Settings, ACK, STATUS, unknown codes -/

/-- The fields of the response to PORT SETUP (R152). -/
def Settings.fields (x : Settings) : List Field :=
  [.byte x.format.code, .byte (byteOrderCode x.order), .byte x.lapse, .u16 x.enable.toHalf]

/-- PORT SETUP (R152, R154). -/
def State.answerPortSetup (s : State) (p : PortId) (format order lapse : Byte) (enable : Half) : Answer :=
  match Format.ofByte format, byteOrderOf order with
  | some f, some o =>
    let x : Settings := { format := f, order := o, lapse := lapse.toNat, enable := CondSet.ofHalf enable }
    { state := s.updPort p fun q => { q with settings := x, lapseTimer := lapseStart lapse.toNat }
      reply := { result := .ok, fields := x.fields } }
  | _, _ => { state := s, reply := { result := .badValue, fields := [.byte 0, .byte 0, .byte 0, .half 0] } }

/-- ACK (R162). -/
def State.answerAck (s : State) (p : PortId) (conds : Half) : Answer :=
  let t := s.updPort p fun q => { q with latched := q.latched.without (CondSet.ofHalf conds).latched }
  { state := t, reply := { result := .ok, fields := [.u16 (t.pendingSet p).toHalf] } }

/-- The fields of STATUS, in the order of R163. -/
def State.statusFields (s : State) (p : PortId) : List Field :=
  let c := (s.port p).cursor
  [.byte s.engine.code, .u8 s.hold.toByte, .u8 s.run.toByte, .byte s.tile.toNat, .u32 s.ring.w, .u32 s.ring.o,
   .half s.capacity, .half (s.lag p), .byte c.mode.code, .byte c.mark.isSome.toNat, .u16 (s.pendingSet p).toHalf]
  ++ (s.entries.toList.map fun e => .byte (entryCode e)) ++ [.byte s.slot0.code, .byte s.slot1.code]

/-- STATUS (R163). -/
def State.answerStatus (s : State) (p : PortId) : Answer :=
  { state := s, reply := { result := .ok, fields := s.statusFields p } }

/-- BAD_COMMAND (R148): the response is the one result byte. -/
def State.answerBadCommand (s : State) : Answer := { state := s, reply := { result := .badCommand, fields := [] } }

/-! ## The microsecond tick (R165) -/

/-- A port's timers after one more microsecond: what is left of the 2 ms of R151 and of the lapse timeout (R154). -/
def Port.tick (q : Port) : Port :=
  { q with
    lapseTimer := q.lapseTimer.map (· - 1)
    framing :=
      match q.framing with
      | .request left rx => .request (left - 1) rx
      | .response left resp => .response (left - 1) resp
      | .idle => .idle
      | .discarding => .discarding }

/-- A path after one more microsecond: a reading in progress runs down (R3, R5). -/
def Path.tick : Path → Path
  | .reading left => .reading (left - 1)
  | .waiting since => .waiting since

/-- A frame's stage after one more microsecond. -/
def Stage.tick : Stage → Stage
  | .tracking cur rest got path => .tracking cur rest got path.tick
  | .guarding left => .guarding (left - 1)
  | .searching budget path => .searching budget path.tick

/-- The engine after one more microsecond: the coil sensing (R10), or the frame in flight, runs down. -/
def Engine.tick : Engine → Engine
  | .checking pass => .checking { pass with left := pass.left - 1 }
  | .scanning r => .scanning { r with frame := r.frame.map fun f => { f with stage := f.stage.tick } }
  | .halted => .halted
  | .idle => .idle

/-- One microsecond: the counter increases by 1, wrapping (R165), and every running timer runs down (log 10). -/
def State.tick (s : State) : State :=
  { s with
    counter := s.counter + 1
    engine := s.engine.tick
    pulse := s.pulse.map (· - 1)
    port0 := s.port0.tick
    port1 := s.port1.tick }

/-! ## The meanings -/

/-- STATUS. -/
def execStatus (p : PortId) (s : State) : Host.Outcome State Fault Refusal := .next (s.onRequest p fun t => t.answerStatus p)

/-- PORT SETUP. -/
def execPortSetup (p : PortId) (format order lapse : Byte) (enable : Half) (s : State) :
    Host.Outcome State Fault Refusal :=
  .next (s.onRequest p fun t => t.answerPortSetup p format order lapse enable)

/-- ACK. -/
def execAck (p : PortId) (conds : Half) (s : State) : Host.Outcome State Fault Refusal :=
  .next (s.onRequest p fun t => t.answerAck p conds)

/-- PORT RESET. -/
def execPortReset (p : PortId) (s : State) : Host.Outcome State Fault Refusal :=
  .next (s.onRequest p fun t => t.answerPortReset p)

/-- BAD_COMMAND; a code that names a command is not this event, and nothing happens (R148, log 2). -/
def execBadCommand (p : PortId) (code : Byte) (s : State) : Host.Outcome State Fault Refusal :=
  .next (if commandCodes.contains code then s else s.onRequest p State.answerBadCommand)

/-- FULL_RESET: every block returns to its values after full reset, the straps are read and the ports follow their CS
(spec 00 section 7.7, R103, R147). The queue of waiting commands and the count of
free choices are not the part's and stay. -/
def execFullReset (tile1 tile0 cs0 cs1 quiet : Bool) (s : State) : Host.Outcome State Fault Refusal :=
  .next { State.resetWith tile1 tile0 cs0 cs1 quiet with pending := s.pending, choices := s.choices }

/-- CS_FALL. -/
def execCsFall (p : PortId) (s : State) : Host.Outcome State Fault Refusal := .next (s.csFall p)

/-- CS_RISE. -/
def execCsRise (p : PortId) (s : State) : Host.Outcome State Fault Refusal := .next (s.csRise p)

/-- TRANSACTION_ABANDONED. -/
def execTransactionAbandoned (p : PortId) (s : State) : Host.Outcome State Fault Refusal := .next (s.abandon p)

/-- LAPSE_TIMER_EXPIRY. -/
def execLapseTimerExpiry (p : PortId) (s : State) : Host.Outcome State Fault Refusal := .next (s.lapseTimerExpiry p)

/-- TIMESTAMP_COUNTER_TICK. -/
def execTimestampCounterTick (s : State) : Host.Outcome State Fault Refusal := .next s.tick

end Sys2Proof.Machine
end

