-- ==== Sys2Proof/Machine/Serial.lean ====
section
/-!
DEFINITION. The bits of a transaction (R147 to R149): SCLK_EDGE samples MOSI on a rising edge and changes MISO after a falling
one, lets a complete request take effect, and brings the place events of READ and CAPTURE
READ at the edges where they fall (log 4).
-/

namespace Sys2Proof.Machine

/-- A complete request takes effect (R148): the meaning of its row. An event is no request. -/
def runRequest (i : Instr) (s : State) : Host.Outcome State Fault Refusal :=
  match i with
  | .status p => execStatus p s
  | .read p n => execRead p n s
  | .mark p => execMark p s
  | .rewind p => execRewind p s
  | .cursorSetup p mode ready margin => execCursorSetup p mode ready margin s
  | .portSetup p format order lapse enable => execPortSetup p format order lapse enable s
  | .ack p conds => execAck p conds s
  | .hold p => execHold p s
  | .release p => execRelease p s
  | .run p => execRun p s
  | .stop p => execStop p s
  | .flush p => execFlush p s
  | .portReset p => execPortReset p s
  | .configWrite p item value => execConfigWrite p item value s
  | .configRead p item => execConfigRead p item s
  | .curveBegin p curve count => execCurveBegin p curve count s
  | .curveKnot p curve input output => execCurveKnot p curve input output s
  | .curveRead p curve => execCurveRead p curve s
  | .checkReport p => execCheckReport p s
  | .capture p trigger first second drive => execCapture p trigger first second drive s
  | .captureStatus p => execCaptureStatus p s
  | .captureRead p entry n fromStart => execCaptureRead p entry n fromStart s
  | .captureRelease p entry => execCaptureRelease p entry s
  | .badCommand p code => execBadCommand p code s
  | .fullReset _ _ _ _ _ | .csFall _ | .csRise _ | .transactionAbandoned _ | .lapseTimerExpiry _ | .frameStart => .next s
  | .readingEnd _ _ | .guardExpiry | .coilSensingEnd _ | .quietRise | .quietFall | .quietTimerExpiry => .next s
  | .tsyncFall | .tsyncPulseExpiry | .captureCopy _ | .readPlaceBegin _ | .readRecordComplete _ => .next s
  | .captureReadPlaceBegin _ | .captureReadRecordComplete _ | .sclkEdge _ _ _ | .timestampCounterTick => .next s

/-- A rising edge while the request is being received: the bit is kept, and a request it completes takes effect. -/
def State.requestRise (s : State) (p : PortId) (rx : Rx) (mosi : Bool) : Host.Outcome State Fault Refusal :=
  let got := rx.shift mosi
  let t := s.updPort p fun q => { q with framing := .request transactionTime got }
  match got.complete (s.port p).settings.order p with
  | some i => runRequest i t
  | none => .next t

/-- A falling edge while the request is being received: MISO shifts out 00h (R147). -/
def State.requestFall (s : State) (p : PortId) (rx : Rx) : State :=
  s.updPort p fun q => { q with framing := .request transactionTime rx, miso := some false }

/-- The place of a READ or CAPTURE READ response that is due begins; one of the two does nothing (R117, R143). -/
def State.placeBegin (s : State) (p : PortId) : State := (s.readPlaceBegin p).captureReadPlaceBegin p

/-- The place of a READ or CAPTURE READ response has been sent; one of the two does nothing (R117, R143). -/
def State.placeComplete (s : State) (p : PortId) : State := (s.readRecordComplete p).captureReadRecordComplete p

/-- The next bit of the response goes onto MISO. -/
def State.shiftOut (s : State) (p : PortId) : State :=
  s.updPort p fun q =>
    match q.framing with
    | .response _ resp =>
      { q with
        framing := .response transactionTime { resp with outBits := resp.outBits + 1 }
        miso := some resp.nextBit }
    | .idle | .request _ _ | .discarding => q

/-- A falling edge while the response is being sent: a place whose first byte is due begins, and the next bit goes out. -/
def State.responseFall (s : State) (p : PortId) (resp : Resp) : State :=
  (if resp.placeDue then s.placeBegin p else s).shiftOut p

/-- A rising edge while the response is being sent: MOSI is ignored; a place whose last bit the master now has is complete. -/
def State.responseRise (s : State) (p : PortId) (resp : Resp) : State :=
  if resp.placeSent then s.placeComplete p else s.setResp p transactionTime resp

/-- SCLK_EDGE on port `p`: an edge while CS is low clocks the transaction on and restarts the 2 ms (R147, R151). An edge while
CS is high, or after an abandonment, is ignored. -/
def execSclkEdge (p : PortId) (edge : ClockEdge) (mosi : Bool) (s : State) : Host.Outcome State Fault Refusal :=
  match (s.port p).framing, edge with
  | .request _ rx, .rise => s.requestRise p rx mosi
  | .request _ rx, .fall => .next (s.requestFall p rx)
  | .response _ resp, .rise => .next (s.responseRise p resp)
  | .response _ resp, .fall => .next (s.responseFall p resp)
  | .idle, _ | .discarding, _ => .next s

end Sys2Proof.Machine
end

