-- ==== Sys2Proof/Machine/Dispatch.lean ====
section
/-!
DEFINITION. Every command to its meaning: one arm for each row of spec/opcode_table.json.
-/

namespace Sys2Proof.Machine

/-- The effect of a command on everything but the queue. -/
def exec (i : Instr) (s : State) : Host.Outcome State Fault Refusal :=
  match i with
  | .status p => Sys2Proof.Machine.execStatus p s
  | .read p n => Sys2Proof.Machine.execRead p n s
  | .mark p => Sys2Proof.Machine.execMark p s
  | .rewind p => Sys2Proof.Machine.execRewind p s
  | .cursorSetup p mode ready margin => Sys2Proof.Machine.execCursorSetup p mode ready margin s
  | .portSetup p format order lapse enable => Sys2Proof.Machine.execPortSetup p format order lapse enable s
  | .ack p conds => Sys2Proof.Machine.execAck p conds s
  | .hold p => Sys2Proof.Machine.execHold p s
  | .release p => Sys2Proof.Machine.execRelease p s
  | .run p => Sys2Proof.Machine.execRun p s
  | .stop p => Sys2Proof.Machine.execStop p s
  | .flush p => Sys2Proof.Machine.execFlush p s
  | .portReset p => Sys2Proof.Machine.execPortReset p s
  | .configWrite p item value => Sys2Proof.Machine.execConfigWrite p item value s
  | .configRead p item => Sys2Proof.Machine.execConfigRead p item s
  | .curveBegin p curve count => Sys2Proof.Machine.execCurveBegin p curve count s
  | .curveKnot p curve input output => Sys2Proof.Machine.execCurveKnot p curve input output s
  | .curveRead p curve => Sys2Proof.Machine.execCurveRead p curve s
  | .checkReport p => Sys2Proof.Machine.execCheckReport p s
  | .capture p trigger first second drive => Sys2Proof.Machine.execCapture p trigger first second drive s
  | .captureStatus p => Sys2Proof.Machine.execCaptureStatus p s
  | .captureRead p entry n fromStart => Sys2Proof.Machine.execCaptureRead p entry n fromStart s
  | .captureRelease p entry => Sys2Proof.Machine.execCaptureRelease p entry s
  | .badCommand p code => Sys2Proof.Machine.execBadCommand p code s
  | .fullReset tile1 tile0 cs0 cs1 quiet => Sys2Proof.Machine.execFullReset tile1 tile0 cs0 cs1 quiet s
  | .csFall p => Sys2Proof.Machine.execCsFall p s
  | .csRise p => Sys2Proof.Machine.execCsRise p s
  | .transactionAbandoned p => Sys2Proof.Machine.execTransactionAbandoned p s
  | .lapseTimerExpiry p => Sys2Proof.Machine.execLapseTimerExpiry p s
  | .frameStart => Sys2Proof.Machine.execFrameStart s
  | .readingEnd amplitude phase => Sys2Proof.Machine.execReadingEnd amplitude phase s
  | .guardExpiry => Sys2Proof.Machine.execGuardExpiry s
  | .coilSensingEnd level => Sys2Proof.Machine.execCoilSensingEnd level s
  | .quietRise => Sys2Proof.Machine.execQuietRise s
  | .quietFall => Sys2Proof.Machine.execQuietFall s
  | .quietTimerExpiry => Sys2Proof.Machine.execQuietTimerExpiry s
  | .tsyncFall => Sys2Proof.Machine.execTsyncFall s
  | .tsyncPulseExpiry => Sys2Proof.Machine.execTsyncPulseExpiry s
  | .captureCopy entry => Sys2Proof.Machine.execCaptureCopy entry s
  | .readPlaceBegin p => Sys2Proof.Machine.execReadPlaceBegin p s
  | .readRecordComplete p => Sys2Proof.Machine.execReadRecordComplete p s
  | .captureReadPlaceBegin p => Sys2Proof.Machine.execCaptureReadPlaceBegin p s
  | .captureReadRecordComplete p => Sys2Proof.Machine.execCaptureReadRecordComplete p s
  | .sclkEdge p edge mosi => Sys2Proof.Machine.execSclkEdge p edge mosi s
  | .timestampCounterTick => Sys2Proof.Machine.execTimestampCounterTick s

end Sys2Proof.Machine
end

