-- ==== Sys2Proof/Safety.lean ====
section
/-!
DEFINITION. The laws of the part, as predicates on the state that every command keeps, and the frames that statements name:
what an event may change of the ring and what hangs on it.
-/

namespace Sys2Proof.Machine

/-! ## Ports -/

/-- Port `p` is receiving the bytes of a request, so that a request of `p` can be complete (R147, R148). -/
def State.receiving (s : State) (p : PortId) : Bool :=
  match (s.port p).framing with
  | .request _ _ => true
  | .idle | .response _ _ | .discarding => false

/-- Port `p` changed in its framing alone: a response goes out that is fixed by `reply` and `xfer` (R149). -/
def State.answered (s : State) (p : PortId) (reply : Reply) (xfer : Xfer) : State :=
  let q := s.port p
  s.setPort p { q with
    framing := .response 2000
      { reply := reply, format := q.settings.format, order := q.settings.order, outBits := 0, xfer := xfer } }

/-- Whether a result code reports that the request took effect, or refuses it (R158). -/
def ResultCode.accepts (r : ResultCode) : Bool := decide (r.code.toNat < 0x10)

/-! ## The engine and the slots -/

/-- The law of the engine state and the two sets (R33). -/
def State.engineLaw (s : State) : Bool :=
  match s.engine with
  | .halted => true
  | .checking _ => s.hold.isEmpty
  | .idle => s.hold.isEmpty && s.run.isEmpty
  | .scanning _ => s.hold.isEmpty && !s.run.isEmpty

/-- The sweep in progress, if any. -/
def Engine.sweep : Engine → Option Sweep
  | .scanning r => r.sweep
  | .halted | .checking _ | .idle => none

/-- Whether the engine stands after a check that passed: IDLE or SCANNING (R43). -/
def Engine.hasPassed : Engine → Bool
  | .idle | .scanning _ => true
  | .halted | .checking _ => false

/-- Whether the engine is SCANNING. -/
def Engine.isScanning : Engine → Bool
  | .scanning _ => true
  | .halted | .checking _ | .idle => false

/-- A slot that has written its ENTER has a last good sample (R66), and a TRACKING slot has missed fewer frames than the leave
count (R65). -/
def Slot.lawful (leaveCount : Nat) : Slot → Bool
  | .free => true
  | .tracking t => (t.first || t.lastGood.isSome) && decide (t.miss < leaveCount)

/-- The law of the slots: both are FREE outside SCANNING (R57), no two TRACKING slots hold the same kind (R61), and no channel
stands twice on the list of a sweep (R53). -/
def State.slotLaw (s : State) : Prop :=
  (s.engine.isScanning = false → s.slot0 = .free ∧ s.slot1 = .free)
  ∧ (∀ k, ¬ (s.slot0.tracks k = true ∧ s.slot1.tracks k = true))
  ∧ 1 ≤ s.items.leaveCount
  ∧ s.slot0.lawful s.items.leaveCount = true ∧ s.slot1.lawful s.items.leaveCount = true
  ∧ (∀ sw, s.engine.sweep = some sw → sw.list.Nodup)

/-! ## The table of items, and the bytes of a field -/

/-- One row of table 9.8.3: the id, the range or the codes, and the value that a state stores for the item. -/
structure ItemRow where
  id : Nat
  range : ItemRange
  value : Nat
deriving DecidableEq, Repr

/-- Table 9.8.3 over the stored items (R1, R5, R6, R9, R17, R48, R58, R99): sixteen items with ids of their own, the multiplier and
the divider of each channel, and the ten fields f of each kind Kk at the ids 40h + 16 k + f. An absent eraser channel is 8. -/
def Items.table (x : Items) : List ItemRow :=
  [ ⟨0x01, .numeric 8 192, x.xCoils⟩, ⟨0x02, .numeric 8 128, x.yCoils⟩, ⟨0x03, .numeric 100 1000, x.pitch⟩
  , ⟨0x04, .numeric 10 80, x.dwell⟩, ⟨0x05, .codes 2, match x.checkMode with | .full => 0 | .reuse => 1⟩
  , ⟨0x06, .numeric 0 8, x.maxDefects⟩
  , ⟨0x20, .numeric 2500 20000, x.framePeriod⟩, ⟨0x21, .codes 2, if x.quietGating then 1 else 0⟩
  , ⟨0x22, .numeric 50 2000, x.quietTimeout⟩
  , ⟨0x28, .numeric 0 65535, x.enterLevel⟩, ⟨0x29, .numeric 0 65535, x.leaveLevel⟩, ⟨0x2A, .numeric 1 15, x.leaveCount⟩
  , ⟨0x2B, .numeric 0 8191, x.contactOn⟩, ⟨0x2C, .numeric 0 8191, x.contactOff⟩
  , ⟨0x30, .numeric 0 7, x.ringBase⟩, ⟨0x31, .numeric 1 8, x.ringBanks⟩ ]
  ++ ((List.finRange 8).flatMap fun i =>
      [ ⟨0x10 + i.val, .numeric 1 1023, (x.chans[i]).m⟩, ⟨0x18 + i.val, .numeric 1 255, (x.chans[i]).n⟩ ])
  ++ (List.finRange 4).flatMap fun k =>
      let e := x.kinds[k]
      let at_ (f : Nat) (range : ItemRange) (value : Nat) : ItemRow := ⟨0x40 + 16 * k.val + f, range, value⟩
      [ at_ 0 (.codes 2) (if e.enabled then 1 else 0), at_ 1 (.codes 8) e.tip.val
      , at_ 2 (.codes 9) (match e.eraser with | some c => c.val | none => 8), at_ 3 (.codes 8) e.collar.val
      , at_ 4 (.numeric 500 3000) e.spacing, at_ 5 (.codes 4) e.curve.val
      , at_ 6 (.numeric 0 4095) e.phaseZero, at_ 7 (.numeric 256 4095) e.phaseSpan
      , at_ 8 (.numeric 0 128) e.tipCorr, at_ 9 (.numeric 0 65535) e.collarMin ]

/-- The `n` bytes of a field with value `v`, in the order sent: LITTLE the least significant first, BIG the most (R159). -/
def sentBytes (order : ByteOrder) (v n : Nat) : List Byte :=
  let rising := (List.range n).map fun j => BitVec.ofNat 8 (v / 256 ^ j)
  match order with
  | .little => rising
  | .big => rising.reverse

/-! ## The solver's call -/

/-- The sample of a slot in a solve stage (R32, R50, R62, R75, R77): the solver is called with the entry of the slot's kind and the
knots of the curve which that entry names, and with four windows, end X, end Y, collar X and collar Y: of each the first coil
min (c - 3, n - 7) for its centre c and the n coils of its axis, the coils that the defect map lists on that axis, and the
readings taken for that slot and that window, in the order taken. -/
def State.sampleOf (s : State) (got : List (TrackRead × Reading)) (i : SlotId) (t : Track) : Sample :=
  let entry := s.items.kinds[t.kind]
  let knots := match s.curves[entry.curve] with | .empty => [] | .loading _ ks _ => ks | .loaded ks => ks
  let window (id : WindowId) (centre coils : Nat) (defects : AxisDefects) : WindowIn :=
    { first := min (centre - 3) (coils - 7)
      coils := coils
      listed := defects.listed.map Defect.coil
      readings := (got.filter fun r => decide (r.1.slot = i ∧ r.1.window = id)).map Prod.snd }
  solve s.items knots entry
    (window .endX t.endX s.items.xCoils s.map.x) (window .endY t.endY s.items.yCoils s.map.y)
    (window .colX t.colX s.items.xCoils s.map.x) (window .colY t.colY s.items.yCoils s.map.y)

/-! ## Items, curves, the map and the report -/

/-- Whether a stored value is one an item can hold (table 9.8.3). -/
def ItemRange.admits : ItemRange → Nat → Bool
  | .numeric low high, v => decide (low ≤ v) && decide (v ≤ high)
  | .codes n, v => decide (v < n)

/-- Every item in its range, the pitch even (R1) and the ring inside the eight banks (R99). -/
def Items.lawful (x : Items) : Prop :=
  (∀ i : Item, i.range.admits (x.get i) = true) ∧ x.pitch % 2 = 0 ∧ x.ringBase + x.ringBanks ≤ 8

/-- A knot in its ranges (R22). -/
def Knot.lawful (k : Knot) : Bool := decide (k.input ≤ 4095) && decide (k.output ≤ 8191)

/-- The law of a curve's states (R22). -/
def Curve.lawful : Curve → Bool
  | .empty => true
  | .loading count knots _ =>
    decide (2 ≤ count) && decide (count ≤ 16) && decide (knots.length < count) && knots.all Knot.lawful
  | .loaded knots => decide (2 ≤ knots.length) && decide (knots.length ≤ 16) && knots.all Knot.lawful

/-- The law of every curve (R22). -/
def State.curveLaw (s : State) : Prop := ∀ c : Fin 4, (s.curves[c]).lawful = true

/-- The law of an axis of the defect map: at most 8 entries in ascending coil order, none twice, and none unlisted unless the
list is full (R8). -/
def AxisDefects.lawful (d : AxisDefects) : Prop :=
  d.listed.length ≤ 8 ∧ (d.listed.map Defect.coil).Pairwise (· < ·) ∧ (0 < d.unlisted → d.listed.length = 8)

/-- During a FULL sensing pass the coils listed are below the coil being sensed, and of the axes sensed so far (R10). -/
def Engine.passLaw (m : DefectMap) : Engine → Prop
  | .checking pass =>
    match pass.axis with
    | .x => (∀ c ∈ m.coils .x, c < pass.coil) ∧ m.y = .none
    | .y => ∀ c ∈ m.coils .y, c < pass.coil
  | .halted | .idle | .scanning _ => True

/-- The law of the map and the report (R8, R44): the lists, a map that is empty when INVALID outside a check, the map VALID after
a check that passed, and at most 16 findings. -/
def State.checkLaw (s : State) : Prop :=
  s.map.x.lawful ∧ s.map.y.lawful ∧ s.engine.passLaw s.map
  ∧ (s.map.valid = false → s.map = DefectMap.invalid ∨ ∃ pass, s.engine = .checking pass)
  ∧ (s.engine.hasPassed = true → s.map.valid = true)
  ∧ s.report.findings.length ≤ 16 ∧ (s.report.truncated = true → s.report.findings.length = 16)

/-! ## The ring, the cursors and the captures -/

/-- The law of the ring (R101): at most C records held, the write position inside the ring, and every sequence of O..W - 1 read
back as the record that carries it. -/
def State.ringLaw (s : State) : Prop :=
  s.count ≤ s.capacity ∧ s.ring.writePos < s.capacity
  ∧ ∀ j, j < s.count →
      (s.ringRead (s.ring.o + BitVec.ofNat 32 j)).map Record.seq = some (s.ring.o + BitVec.ofNat 32 j)

/-- The law of a port's cursor: next lies within O..W (R113), the thresholds within the capacity and skipped saturated
(R112). -/
def State.cursorLaw (s : State) (p : PortId) : Prop :=
  s.lag p ≤ s.count
  ∧ 1 ≤ (s.port p).cursor.ready ∧ (s.port p).cursor.ready ≤ s.capacity
  ∧ (s.port p).cursor.margin < s.capacity ∧ (s.port p).cursor.skipped ≤ 65535

/-- The copied records of an entry stand in its bank in window order (R129). -/
def State.copiesOf (s : State) (h : Held) (start : Seq) : Prop :=
  ∀ j, j < h.copied →
    (Store.read s.store (bankAddr h.bank.val j)).map Record.seq = some (start + BitVec.ofNat 32 j)

/-- The window of an entry that has one: at most 512 records, of which copied ones stand in the bank (R129, R138). -/
def State.windowLaw (s : State) (h : Held) : Prop :=
  match h.window with
  | none => h.copied = 0 ∧ h.readPos = 0
  | some w => w.target ≤ 512 ∧ h.copied ≤ w.target ∧ h.readPos ≤ h.copied ∧ s.copiesOf h w.start

/-- The fields of an entry by its state (R129). -/
def Held.stageLaw (h : Held) : Prop :=
  match h.stage with
  | .armed => h.window = none ∧ h.reach.isSome = true
  | .filling => ∃ w, h.window = some w ∧ h.copied < w.target ∧ h.readPos = 0
  | .ready => ∃ w, h.window = some w ∧ h.copied = w.target
  | .failed _ => True

/-- A look-back and look-ahead that a CAPTURE accepts (R131). -/
def Held.reachLaw (h : Held) : Prop :=
  ∀ r, h.reach = some r → r.1 ≤ 511 ∧ r.2 ≤ 511 ∧ 1 ≤ r.1 + r.2 ∧ r.1 + r.2 ≤ 512

/-- The law of the capture table: every entry's bank lies outside the ring and no two entries share one (R98, R130), and each
entry's fields are as its state says (R129). -/
def State.captureLaw (s : State) : Prop :=
  (∀ e h, s.entry e = some h → s.items.isRingBank h.bank = false ∧ s.windowLaw h ∧ h.stageLaw ∧ h.reachLaw)
  ∧ (∀ e e' h h', s.entry e = some h → s.entry e' = some h' → h.bank = h'.bank → e = e')

/-- A READ response that sends a record finds next at it and the ring holding it, as long as no lap or flush has moved next
(R117). A CAPTURE READ response whose entry has not been released sends the window of a READY entry of its own port, each place
the record that stands there (R143). -/
def State.transferLaw (s : State) (p : PortId) : Prop :=
  match (s.port p).framing with
  | .response _ resp =>
    match resp.xfer with
    | .read _ _ (some (.stroke r)) =>
      (s.port p).cursor.moved = false → (s.port p).cursor.next = r.seq ∧ s.holds r.seq = true
    | .capture e true first k done cur =>
      ∃ h w, s.entry e = some h ∧ h.owner = p ∧ h.stage = .ready ∧ h.window = some w
        ∧ h.readPos + (k - done) ≤ w.target ∧ done ≤ k ∧ (cur.isSome = true → done < k)
        ∧ w.start + BitVec.ofNat 32 h.readPos = first + BitVec.ofNat 32 done
    | .capture _ false _ _ _ _ | .read _ _ none | .read _ _ (some (.void _)) | .none => True
  | .idle | .request _ _ | .discarding => True

/-- The law of the stroke history: items, the SRAM banks, the ring, both cursors, the captures and what is being read of
them. -/
def State.historyLaw (s : State) : Prop :=
  s.items.lawful ∧ Store.wf s.store ∧ s.ringLaw ∧ s.cursorLaw .p0 ∧ s.cursorLaw .p1
  ∧ s.captureLaw ∧ s.transferLaw .p0 ∧ s.transferLaw .p1

/-! ## What appends change -/

/-- The addresses of the next `n` record slots of the ring, from the write position on (R101, R104). -/
def State.nextAddrs (s : State) (n : Nat) : List Nat :=
  (List.range n).map fun j => s.ringAddr ((s.ring.writePos + j) % s.capacity)

/-- A cursor that appends may have lapped: only next, that it has moved, and skipped can have changed (R114, R117). -/
def Cursor.lapsOnly (a b : Cursor) : Prop :=
  b = { a with next := b.next, skipped := b.skipped, moved := b.moved } ∧ (b.moved = false → b = a)

/-- An entry that appends may have overtaken: it is as before, or FAILED with OVERTAKEN (R140). -/
def overtakenOnly (a b : Option Held) : Prop :=
  b = a ∨ ∃ h, a = some h ∧ h.stage = .filling ∧ b = some { h with stage := .failed .overtaken }

/-- What `n` appends do: W rises by `n`, no other record slot is written, cursors are at most lapped and entries at most
overtaken; where the ring had room, O, the cursors, the entries and the conditions a lap or an overtaking raises are as before
(R104, R114, R140). -/
def State.appended (s t : State) (n : Nat) : Prop :=
  t.ring.w = s.ring.w + BitVec.ofNat 32 n
  ∧ (∀ a, a ∉ s.nextAddrs n → Store.read t.store a = Store.read s.store a)
  ∧ (∀ p, (s.port p).cursor.lapsOnly (t.port p).cursor)
  ∧ (∀ e, overtakenOnly (s.entry e) (t.entry e))
  ∧ (s.count + n ≤ s.capacity →
      t.ring.o = s.ring.o ∧ t.entries = s.entries
      ∧ ∀ p, (t.port p).cursor = (s.port p).cursor ∧ (t.port p).latched.lapped = (s.port p).latched.lapped
          ∧ (t.port p).latched.capture = (s.port p).latched.capture)

/-- A port in all but its framing, its cursor and its latched set: settings, MISO and lapse timer are as before. -/
def Port.sameLine (a b : Port) : Prop := b.settings = a.settings ∧ b.miso = a.miso ∧ b.lapseTimer = a.lapseTimer

/-- The LEAVE that closing a slot writes, if it has written its ENTER: the slot, kind, end and buttons of the slot, the position,
tilt and collar offsets of its last good sample, and zero in every other field (R66, R68, R71). -/
def Slot.closingRecord (i : SlotId) : Slot → Option RecordBody
  | .free => none
  | .tracking t =>
    match t.first, t.lastGood with
    | false, some v =>
      some (.stroke .leave
        { slot := i, kind := t.kind, toolEnd := t.toolEnd, x := v.x, y := v.y, pressure := 0
          tiltX := v.tiltX, tiltY := v.tiltY, contact := false, buttons := t.buttons, flags := {}
          tipAmp := 0, colAmp := 0, colDx := v.colDx, colDy := v.colDy, travel := 0 })
    | _, _ => none

/-- What the stop of frames leaves (R55, R71, R72): both slots FREE; in the ring the LEAVE of S0 and that of S1, where they wrote
an ENTER, with the start time of the frame, and then the BREAK with its cause and the time of writing; ENGINE raised on both
ports, and PROX when a LEAVE was written (R33, R70). Of a port only the cursor and the latched set change, and of that beside
these at most LAPPED and CAPTURE. -/
def State.framesStopped (s t : State) (start : Time) (cause : BreakCause) : Prop :=
  let leaves := (s.slot0.closingRecord .s0).toList ++ (s.slot1.closingRecord .s1).toList
  let written := leaves.map (fun body => (start, body)) ++ [(s.counter, .brk cause)]
  t.slot0 = .free ∧ t.slot1 = .free
  ∧ s.appended t written.length
  ∧ (∀ j time body, written[j]? = some (time, body) →
      Store.read t.store (512 * s.items.ringBase + (s.ring.writePos + j) % s.capacity)
        = some { seq := s.ring.w + BitVec.ofNat 32 j, tile := s.tile, time := time, body := body })
  ∧ ∀ q, t.port q = { s.port q with
      cursor := (t.port q).cursor
      latched := { (s.port q).latched with
        engine := true, prox := (s.port q).latched.prox || decide (leaves ≠ [])
        lapped := (t.port q).latched.lapped, capture := (t.port q).latched.capture } }

/-! ## What falls together with an append -/

/-- Command `i` may bring an event of port `p` to the ring or to its cursor: READ, MARK, REWIND, CURSOR SETUP, FLUSH, a place of
a READ, or an edge that completes one of these (R109, R117, R128). -/
def atRing (p : PortId) (i : Instr) : Prop :=
  i = .flush p ∨ i = .mark p ∨ i = .rewind p ∨ (∃ n, i = .read p n) ∨ (∃ mode r f, i = .cursorSetup p mode r f)
  ∨ i = .readPlaceBegin p ∨ i = .readRecordComplete p ∨ ∃ edge mosi, i = .sclkEdge p edge mosi

/-- The event that such a command brings, `s` before and `t` after: the command itself; of a clock edge the request that it
completes, or the place of a READ response that it begins or completes, and nothing where it brings neither (log 4). -/
def State.takes (s t : State) (p : PortId) (i : Instr) : Prop :=
  match i with
  | .sclkEdge _ edge mosi =>
    match (s.port p).framing, edge with
    | .request _ rx, .rise =>
      ∃ j, (rx.shift mosi).complete (s.port p).settings.order p = some j ∧ atRing p j ∧ exec i s = .next t
    | .response _ resp, .fall =>
      let due := ∃ k done, resp.xfer = .read k done none ∧ done < k ∧ resp.outBits = 8 * (4 + done * resp.format.length)
      (due → exec (.readPlaceBegin p) s = .next t) ∧ (¬ due → t = s)
    | .response _ resp, .rise =>
      let sent := ∃ k done pl, resp.xfer = .read k done (some pl) ∧ resp.outBits = 8 * (4 + (done + 1) * resp.format.length)
      (sent → exec (.readRecordComplete p) s = .next t) ∧ (¬ sent → t = s)
    | _, _ => False
  | _ => exec i s = .next t

/-- What is taken before an append of an event of several, `s` before and `u` after (R109, R128; log 16): nothing, where no event
of a port outside `busy` waits at the front of the queue; and else nothing, or the first event that waits, or that and the
other port's behind it. A FLUSH that waits with no event behind it is taken first or not, as the free value has it. The count of
choices alone changes beside. -/
def State.together (s u : State) (busy : List PortId) : Prop :=
  let counted (t : State) (n : Nat) : State := { t with choices := n }
  ((∀ p i rest, p ∉ busy → s.pending = i :: rest → ¬ atRing p i) → u = s)
  ∧ ((∃ n, u = counted s n)
    ∨ ∃ p i rest t, p ∉ busy ∧ s.pending = i :: rest ∧ atRing p i ∧ s.takes t p i
        ∧ ((∃ n, u = counted t n)
          ∨ ∃ i' rest' t' m n, p.other ∉ busy ∧ rest = i' :: rest' ∧ atRing p.other i'
              ∧ (counted t m).takes t' p.other i' ∧ u = counted t' n))
  ∧ ∀ p rest, p ∉ busy → s.pending = .flush p :: rest → (∀ i rest', rest = i :: rest' → ¬ atRing p.other i) →
      ∃ t, exec (.flush p) s = .next t
        ∧ u = if Config.takenBefore s.choices then counted t (s.choices + 1) else counted s (s.choices + 1)

/-- Port `p` stops frames, `s` before and `t` after (R55, R71, R72): S0 is closed, then S1, and the BREAK is appended, and the engine
goes to `e` with ENGINE raised; between these, what the other port brings together with an append may be taken first (R109, R128); that
in a lapse nothing of `p` itself is, is the model's choice (log 16). Where no event of the other port waits, that is all that
happens. -/
def State.stopped (s t : State) (p : PortId) (start : Time) (cause : BreakCause) (e : Engine) : Prop :=
  (∃ u v : State, (s.closeSlot .s0 start).together u [p] ∧ (u.closeSlot .s1 start).together v [p]
    ∧ t = ({ v.append v.counter (.brk cause) with engine := e } : State).raiseBoth .engine)
  ∧ ((∀ i rest, s.pending = i :: rest → ¬ atRing p.other i) → s.ring.writePos < s.capacity →
      s.framesStopped t start cause
      ∧ t = { s with
          engine := e, slot0 := .free, slot1 := .free, ring := t.ring, store := t.store, entries := t.entries
          port0 := t.port0, port1 := t.port1 })

/-! ## The check -/

/-- The findings of a derivation on one axis (R13): for each listed coil in order its NOTE, ADJACENT_DEFECTS when the coil one
lower is listed before it, and TOO_MANY_DEFECTS when it is the first beyond the limit; then TOO_MANY_DEFECTS at the last listed
coil, when there are unlisted ones and the list has not gone beyond the limit. -/
def AxisDefects.derivation (d : AxisDefects) (a : Axis) (limit : Nat) : List Finding :=
  (d.listed.zipIdx.flatMap fun ci =>
    [⟨match ci.1.reason with | .openLoop => .coilOpen | .shortLoop => .coilShort, some a, some ci.1.coil, Option.none⟩]
    ++ (if 0 < ci.2 ∧ (d.listed[ci.2 - 1]?).map (fun c => c.coil + 1) = some ci.1.coil then
          [⟨.adjacentDefects, some a, some (ci.1.coil - 1), some ci.1.coil⟩] else [])
    ++ (if ci.2 = limit then [⟨.tooManyDefects, some a, some ci.1.coil, Option.none⟩] else []))
  ++ (if 0 < d.unlisted ∧ d.listed.length ≤ limit then
        [⟨.tooManyDefects, some a, d.listed.getLast?.map Defect.coil, Option.none⟩] else [])

/-- What a check that starts does at once (R9, R10, R13, R33, R40, R43, R44), `s` before and `t` after: a configuration check with
findings fails, the map kept; without, a FULL sensing pass begins at X coil 0 with the map INVALID and empty, in mode FULL or
with an INVALID map; in mode REUSE with a VALID map its derivation decides, to HALTED, or to IDLE or a first frame by the run
set. ENGINE is raised on both ports, and CHECK by a failure. Nothing else changes. -/
def State.checkStarted (s t : State) : Prop :=
  let found := configFindings s.items s.curves
  let derived := s.map.x.derivation .x s.items.maxDefects ++ s.map.y.derivation .y s.items.maxDefects
  let senses := s.items.checkMode = .full ∨ s.map.valid = false
  let ends (outcome : CheckOutcome) (fs : List Finding) : Report :=
    { outcome := outcome, findings := fs.take 16, truncated := decide (16 < fs.length) }
  (found ≠ [] → t.engine = .halted ∧ t.map = s.map ∧ t.report = ends .failed found)
  ∧ (found = [] → senses →
      t.engine = .checking { axis := .x, coil := 0, left := 50, prevBad := false, tooMany := false, failed := false }
      ∧ t.map = { valid := false, x := ⟨[], 0⟩, y := ⟨[], 0⟩ }
      ∧ t.report = { outcome := .running, findings := [], truncated := false })
  ∧ (found = [] → ¬ senses → (∃ f ∈ derived, f.kind ≠ .coilOpen ∧ f.kind ≠ .coilShort) →
      t.engine = .halted ∧ t.map = s.map ∧ t.report = ends .failed derived)
  ∧ (found = [] → ¬ senses → (∀ f ∈ derived, f.kind = .coilOpen ∨ f.kind = .coilShort) →
      t.map = s.map ∧ t.report = ends .passed derived
      ∧ (s.run.isEmpty = true → t.engine = .idle)
      ∧ (s.run.isEmpty = false → s.slot0 = .free → s.slot1 = .free →
          t.engine = .scanning
            { start := s.counter
              frame := some { t := 0, gating := if s.items.quietGating then .active else .suspended, stage := .guarding 100 }
              sweep := none }))
  ∧ (∀ q, t.port q = { s.port q with
      latched := { (s.port q).latched with
        engine := true, check := (s.port q).latched.check || decide (t.engine = .halted) } })
  ∧ t = { s with engine := t.engine, map := t.map, report := t.report, port0 := t.port0, port1 := t.port1 }

/-! ## The loss of a port's claims -/

/-- Port `p` withdrawn from both sets (R38), `s` before and `t` after: where it held last in HALTED the check starts, where it ran
last in SCANNING frames stop with cause STOPPED and the engine goes to IDLE, and otherwise the two sets alone change. -/
def State.withdrawn (s t : State) (p : PortId) : Prop :=
  let left : State := { s with hold := s.hold.erase p, run := s.run.erase p }
  let starts := s.engine = .halted ∧ s.hold.has p = true ∧ left.hold.isEmpty = true
  let stops (r : Run) := s.engine = .scanning r ∧ (s.hold.has p = true ∨ s.run.has p = true) ∧ left.run.isEmpty = true
  (starts → left.checkStarted t)
  ∧ (∀ r, stops r → left.stopped t p r.start .stopped .idle)
  ∧ (¬ starts → (∀ r, ¬ stops r) → t = left)

/-- The captures and curves of port `p` released (R29, R143, R145, R155), `s` before and `t` after: its entries become EMPTY, a
CAPTURE READ of one of them sends VOID fillers from its next place on, and its LOADING curves lose their owner. The other
entries, curves and transfers, a READ in progress among them, go on as they were, and nothing else changes. -/
def State.claimsReleased (s t : State) (p : PortId) : Prop :=
  let mine (e : Fin 4) : Prop := ∃ h, s.entry e = some h ∧ h.owner = p
  (∀ e, (mine e → t.entry e = none) ∧ (¬ mine e → t.entry e = s.entry e))
  ∧ (∀ c : Fin 4, t.curves[c] = match s.curves[c] with
      | .loading count knots owner => .loading count knots (if owner = some p then none else owner)
      | .loaded knots => .loaded knots
      | .empty => .empty)
  ∧ (∀ q, match (s.port q).framing with
      | .response left resp =>
        match resp.xfer with
        | .capture e live first k done cur =>
          ∃ on : Bool, (on = true ↔ live = true ∧ ¬ mine e)
            ∧ t.port q = { s.port q with
                framing := .response left { resp with xfer := .capture e on first k done cur } }
        | .read _ _ _ | .none => t.port q = s.port q
      | .idle | .request _ _ | .discarding => t.port q = s.port q)
  ∧ t = { s with entries := t.entries, curves := t.curves, port0 := t.port0, port1 := t.port1 }

/-! ## Triggers and peaks -/

/-- The relative captures ARMED with `trigger` triggered (R132 to R134, R136), `s` before and `t` after: each takes W and O as they
stand, has its window fixed and is FILLING, or READY with CAPTURE raised on its owner's port where the window is empty. Nothing
else changes. -/
def State.triggered (s t : State) (trigger : Trigger) : Prop :=
  let wanted (back : Nat) : Seq := s.ring.w - BitVec.ofNat 32 back
  let short (back : Nat) : Prop := seqDist (wanted back) s.ring.o ≤ s.capacity ∧ wanted back ≠ s.ring.o
  let start (back : Nat) : Seq := if short back then s.ring.o else wanted back
  let target (back ahead : Nat) : Nat := seqDist (start back) s.ring.w + ahead
  let armed (e : Fin 4) (h : Held) (back ahead : Nat) : Prop :=
    s.entry e = some h ∧ h.stage = .armed ∧ h.trigger = trigger ∧ h.reach = some (back, ahead)
  (∀ e h back ahead, armed e h back ahead →
    t.entry e = some { h with
      stage := if target back ahead = 0 then .ready else .filling
      window := some { start := start back, target := target back ahead, truncated := decide (short back) }
      copied := 0, readPos := 0 })
  ∧ (∀ e, (∀ h back ahead, ¬ armed e h back ahead) → t.entry e = s.entry e)
  ∧ (∀ q, ∃ capture : Bool,
      (capture = true ↔ (s.port q).latched.capture = true
        ∨ ∃ e h back ahead, armed e h back ahead ∧ target back ahead = 0 ∧ h.owner = q)
      ∧ t.port q = { s.port q with latched := { (s.port q).latched with capture := capture } })
  ∧ t = { s with entries := t.entries, port0 := t.port0, port1 := t.port1 }

/-- `a` is the greatest amplitude of a set of readings and `j` the lowest place that has it; place 0 and amplitude 0 of no
readings (R59, R79). -/
def isPeak (rs : List Reading) (j a : Nat) : Prop :=
  (∀ r ∈ rs, r.amp ≤ a) ∧ (∀ i r, i < j → rs[i]? = some r → r.amp < a)
  ∧ ((rs = [] ∧ j = 0 ∧ a = 0) ∨ ∃ r, rs[j]? = some r ∧ r.amp = a)

/-! ## Bits on the wire -/

/-- The bits of a byte, most significant first (R147). -/
def byteBits (b : Byte) : List Bool := (List.range 8).map b.getMsbD

/-- The edges that clock bits into port `p`: a rising edge for each, and a falling edge between one and the next (R147). -/
def edgesOf (p : PortId) : List Bool → List Instr
  | [] => []
  | [b] => [.sclkEdge p .rise b]
  | b :: c :: rest => .sclkEdge p .rise b :: .sclkEdge p .fall b :: edgesOf p (c :: rest)

/-- A list of commands run in order, each on the state the one before leaves; it stops at the first that has no next state. -/
def execAll : List Instr → State → Host.Outcome State Fault Refusal
  | [], s => .next s
  | i :: rest, s =>
    match exec i s with
    | .next t => execAll rest t
    | .fault f => .fault f
    | .refused r => .refused r

end Sys2Proof.Machine
end

