-- ==== Sys2Proof/Certificates/Slice0/Obligations.lean ====
section
/-!
DEFINITION. The statements about the block, for the provers. Each docstring says which rule of the spec a statement formalises,
and where it rests on a choice of the model it names the log entry.
-/

open Sys2Proof Sys2Proof.Machine

/-! ## The block as a taker of commands -/

/-- A step takes the command at the front of the queue and runs it on the state with the queue's rest; an empty queue idles.
The queue and the idling are the model's own (log 1). -/
def Obligations.StepTakesFrontCommand : Prop :=
  (∀ (s : State) (i : Instr) (rest : List Instr), s.pending = i :: rest → step s = exec i { s with pending := rest })
  ∧ ∀ s : State, s.pending = [] → step s = .next s

/-- No command stops the block, in any state, and none touches the queue, which is the model's own (log 1) and which FULL_RESET
leaves too (log 7): each step of spec 95 is whole, a refused request is answered (R158), and an event with nothing due leaves the
state as it is (log 2). -/
def Obligations.EveryCommandHasNextState : Prop :=
  ∀ (i : Instr) (s : State), ∃ t, exec i s = .next t ∧ t.pending = s.pending

/-- A request takes effect in a transaction whose request is being received, and nowhere else (R147, R151; log 3). It leaves
its port sending a response under that port's settings as the request has left them (R149, R152, R157), and leaves the other
port's settings, lapse timer and MISO alone, and a request it is receiving, unless that waits at the front of the queue and falls
together with an append (R109, R128; log 16). -/
def Obligations.RequestTakenInTransaction : Prop :=
  ∀ (i : Instr) (s : State) (p : PortId), i.wellFormed = true → i.requestPort = some p →
    (s.receiving p = false → exec i s = .next s)
    ∧ (s.receiving p = true → ∃ t resp, exec i s = .next t
        ∧ (t.port p).framing = .response 2000 resp
        ∧ resp.format = (t.port p).settings.format ∧ resp.order = (t.port p).settings.order ∧ resp.outBits = 0
        ∧ (t.port p).miso = (s.port p).miso
        ∧ (s.port p.other).sameLine (t.port p.other)
        ∧ ∀ left rx, (s.port p.other).framing = .request left rx →
            (t.port p.other).framing = .request left rx
            ∨ (∃ j rest, s.pending = j :: rest ∧ atRing p.other j)
              ∧ ∃ resp', (t.port p.other).framing = .response 2000 resp')

/-- "A refused request changes no state. It sets no pending condition" (R158): whatever the command, a result code from 10h up
comes with a state that differs in the framing of the port alone. -/
def Obligations.RefusedRequestChangesNothing : Prop :=
  ∀ (i : Instr) (s t : State) (p : PortId) (left : Nat) (resp : Resp),
    i.requestPort = some p → s.receiving p = true → exec i s = .next t →
    (t.port p).framing = .response left resp → resp.reply.result.accepts = false →
    t = s.answered p resp.reply .none

/-- The bytes of a request and the request that bytes spell agree: every well-formed request is sent, in either byte order, as
its code of table 9.8.1 and its parameters in the table's order and sizes; the code takes as many parameter bytes as are sent, and
they spell the request. The codes that name a command are those of the table, and any other code, with nothing after it, is
BAD_COMMAND (table 9.8.1, R148, R159). -/
def Obligations.RequestBytesRoundTrip : Prop :=
  let row (i : Instr) : Option (Nat × List (Nat × Nat)) :=
    match i with
    | .status _ => some (0x01, [])
    | .read _ n => some (0x02, [(n.toNat, 1)])
    | .mark _ => some (0x03, [])
    | .rewind _ => some (0x04, [])
    | .cursorSetup _ mode ready margin => some (0x05, [(mode.toNat, 1), (ready.toNat, 2), (margin.toNat, 2)])
    | .portSetup _ format order lapse enable =>
      some (0x06, [(format.toNat, 1), (order.toNat, 1), (lapse.toNat, 1), (enable.toNat, 2)])
    | .ack _ conds => some (0x07, [(conds.toNat, 2)])
    | .hold _ => some (0x10, [])
    | .release _ => some (0x11, [])
    | .run _ => some (0x12, [])
    | .stop _ => some (0x13, [])
    | .flush _ => some (0x14, [])
    | .portReset _ => some (0x15, [])
    | .configWrite _ item value => some (0x20, [(item.toNat, 1), (value.toNat, 2)])
    | .configRead _ item => some (0x21, [(item.toNat, 1)])
    | .curveBegin _ curve count => some (0x22, [(curve.toNat, 1), (count.toNat, 1)])
    | .curveKnot _ curve input output => some (0x23, [(curve.toNat, 1), (input.toNat, 2), (output.toNat, 2)])
    | .curveRead _ curve => some (0x24, [(curve.toNat, 1)])
    | .checkReport _ => some (0x25, [])
    | .capture _ trigger first second drive =>
      some (0x30, [(trigger.toNat, 1), (first.toNat, 4), (second.toNat, 2), (drive.toNat, 1)])
    | .captureStatus _ => some (0x31, [])
    | .captureRead _ entry n fromStart => some (0x32, [(entry.toNat, 1), (n.toNat, 1), (fromStart.toNat, 1)])
    | .captureRelease _ entry => some (0x33, [(entry.toNat, 1)])
    | .badCommand _ code => some (code.toNat, [])
    | _ => none
  (∀ (order : ByteOrder) (i : Instr) (p : PortId), i.wellFormed = true → i.requestPort = some p →
    ∃ code fields, row i = some (code, fields)
      ∧ let params := fields.flatMap fun x => sentBytes order x.1 x.2
        encodeRequest order i = some (BitVec.ofNat 8 code :: params) ∧ params.length = paramCount (BitVec.ofNat 8 code)
          ∧ decodeRequest order p (BitVec.ofNat 8 code) params = some i)
  ∧ ∀ code : Byte,
      let n := code.toNat
      let names := (0x01 ≤ n ∧ n ≤ 0x07) ∨ (0x10 ≤ n ∧ n ≤ 0x15) ∨ (0x20 ≤ n ∧ n ≤ 0x25) ∨ (0x30 ≤ n ∧ n ≤ 0x33)
      (code ∈ commandCodes ↔ names)
      ∧ (¬ names → ∀ order p, paramCount code = 0 ∧ decodeRequest order p code [] = some (.badCommand p code))

/-- A request shifted in bit by bit, most significant bit first, takes effect at the edge that brings its last bit, and not
before (R147, R148): clocking the bytes of a request into a port at the start of a transaction ends as the command itself does
on the state with those bytes received. -/
def Obligations.RequestClockedIn : Prop :=
  ∀ (s : State) (p : PortId) (i : Instr) (bytes : List Byte) (left : Nat),
    (s.port p).framing = .request left {} → i.wellFormed = true → i.requestPort = some p →
    encodeRequest (s.port p).settings.order i = some bytes →
    execAll (edgesOf p (bytes.flatMap byteBits)) s
      = exec i (s.setPort p { s.port p with framing := .request 2000 { bytes := bytes }, miso := some false })

/-! ## Framing -/

/-- A transaction begins at a fall of CS and ends at its rise or at its abandonment (R147, R150, R151, R154): the fall starts the
2 ms and, for a timeout that is not 0, the lapse timer; the rise ends the transaction whatever its state; a transaction whose
2 ms are spent (log 10) is abandoned, and the port discards what follows. Nothing else changes. That MISO has no value while CS
is high, and 0 from its fall, is log 5. -/
def Obligations.TransactionFraming : Prop :=
  (∀ (s : State) (p : PortId), (s.port p).framing = .idle →
    exec (.csFall p) s = .next (s.setPort p { s.port p with
      framing := .request 2000 {}
      miso := some false
      lapseTimer := if (s.port p).settings.lapse = 0 then none else some (10000 * (s.port p).settings.lapse) }))
  ∧ (∀ (s : State) (p : PortId), exec (.csRise p) s = .next (s.setPort p { s.port p with framing := .idle, miso := none }))
  ∧ (∀ (s : State) (p : PortId) (rx : Rx) (resp : Resp),
      (s.port p).framing = .request 0 rx ∨ (s.port p).framing = .response 0 resp →
      exec (.transactionAbandoned p) s
        = .next (s.setPort p { s.port p with framing := .discarding, miso := some false }))
  ∧ (∀ (s : State) (p : PortId) (edge : ClockEdge) (mosi : Bool),
      (s.port p).framing = .idle ∨ (s.port p).framing = .discarding → exec (.sclkEdge p edge mosi) s = .next s)

/-- The bits of a response go out most significant bit first, one after each falling edge, and each edge restarts the 2 ms: the
bytes fixed at completion, which are the code of the result, the fields, and the record places of a LATEST READ, then those of
the place being sent, and 00h after the last byte; a rising edge ignores MOSI (R147, R149, R151, R153, R158, R159). In a READ or CAPTURE READ response the falling edge of a place's first bit begins that place, and the rising
edge after its last bit completes it (R117, R143). Which edge brings these events is the model's choice (log 4). -/
def Obligations.ResponseClockedOut : Prop :=
  ∀ (s : State) (p : PortId) (left : Nat) (resp : Resp) (mosi : Bool), (s.port p).framing = .response left resp →
    let code : Nat :=
      match resp.reply.result with
      | .ok => 0x00 | .clamped => 0x01 | .partialDone => 0x02
      | .refusedState => 0x10 | .notHolding => 0x11 | .notOwner => 0x12 | .outOfRange => 0x13 | .noMark => 0x14
      | .noStore => 0x15 | .notReady => 0x16 | .curveFull => 0x17 | .capturesPresent => 0x18
      | .badItem => 0x20 | .badValue => 0x21 | .badCommand => 0x22
    let field (f : Field) : List Byte :=
      match f with
      | .u8 v => sentBytes resp.order v.toNat 1
      | .u16 v => sentBytes resp.order v.toNat 2
      | .u32 v => sentBytes resp.order v.toNat 4
    let fixed : List Byte :=
      BitVec.ofNat 8 code :: (resp.reply.fields.flatMap field
        ++ resp.reply.records.flatMap fun r => (Place.stroke r).bytes resp.format resp.order)
    let here := resp.outBits / 8
    let first (done : Nat) := 4 + done * resp.format.length
    let begins : Prop := ∃ k done, done < k ∧ resp.outBits = 8 * first done
      ∧ (resp.xfer = .read k done none ∨ ∃ e live seq, resp.xfer = .capture e live seq k done none)
    let sends (done : Nat) (pl : Place) : Prop :=
      ∃ k, resp.xfer = .read k done (some pl) ∨ ∃ e live seq, resp.xfer = .capture e live seq k done (some pl)
    let shown (b : Byte) := exec (.sclkEdge p .fall mosi) s
      = .next (s.setPort p { s.port p with
          framing := .response 2000 { resp with outBits := resp.outBits + 1 }, miso := some (b.getMsbD (resp.outBits % 8)) })
    let kept := exec (.sclkEdge p .rise mosi) s = .next (s.setPort p { s.port p with framing := .response 2000 resp })
    (¬ begins → ∀ b, fixed[here]? = some b → shown b)
    ∧ (∀ done pl, sends done pl → fixed.length ≤ here → first done ≤ here →
        shown (((pl.bytes resp.format resp.order)[here - first done]?).getD 0))
    ∧ (¬ begins → (∀ done pl, ¬ sends done pl) → fixed.length ≤ here → shown 0)
    ∧ ((∀ done pl, sends done pl → resp.outBits ≠ 8 * first (done + 1)) → kept)
    ∧ (∀ k done, resp.xfer = .read k done none → done < k → resp.outBits = 8 * first done →
        ∃ t, exec (.readPlaceBegin p) s = .next t
          ∧ exec (.sclkEdge p .fall mosi) s = exec (.sclkEdge p .fall mosi) t)
    ∧ (∀ k done pl, resp.xfer = .read k done (some pl) → resp.outBits = 8 * first (done + 1) →
        exec (.sclkEdge p .rise mosi) s = exec (.readRecordComplete p) s)
    ∧ (∀ e live seq k done, resp.xfer = .capture e live seq k done none → done < k → resp.outBits = 8 * first done →
        ∃ t, exec (.captureReadPlaceBegin p) s = .next t
          ∧ exec (.sclkEdge p .fall mosi) s = exec (.sclkEdge p .fall mosi) t)
    ∧ (∀ e live seq k done pl, resp.xfer = .capture e live seq k done (some pl) → resp.outBits = 8 * first (done + 1) →
        exec (.sclkEdge p .rise mosi) s = exec (.captureReadRecordComplete p) s)

/-! ## Requests that report -/

/-- STATUS, CURVE READ, CHECK REPORT and CAPTURE STATUS answer what stands when the request completes, and an unknown command code
is answered with BAD_COMMAND alone; none of them changes anything. STATUS shows the state in the order of R163, in 26 bytes after
the result code; the capacity it reports is 512..4096 and its lag at most that. Enumerated fields carry the codes of section 9.8
and absent ones read as zero (R31, R44, R99, R113, R144, R148, R159, R163; the zeros of a refused CURVE READ: R149, log 9). -/
def Obligations.ReportsChangeNothing : Prop :=
  ∀ (s : State) (p : PortId), s.receiving p = true →
    let c := (s.port p).cursor
    let stage (h : Held) : Nat := match h.stage with | .armed => 1 | .filling => 2 | .ready => 3 | .failed _ => 4
    let stageOf (e : Fin 4) : Nat := match s.entry e with | none => 0 | some h => stage h
    let shown (e : Fin 4) : List Field :=
      match s.entry e with
      | none => [.u8 0, .u8 0, .u8 0, .u8 0, .u32 0, .u16 0, .u16 0, .u16 0, .u8 0, .u8 0]
      | some h =>
        [ .byte (stage h), .u8 (match h.owner with | .p0 => 1 | .p1 => 2)
        , .u8 (match h.trigger with | .immediate => 0 | .sync => 1 | .contact => 2 | .absolute => 3), .byte h.bank.val
        , .u32 (match h.window with | some w => w.start | none => 0), .half (match h.window with | some w => w.target | none => 0)
        , .half h.copied, .half h.readPos
        , .byte (match h.window with | some w => w.truncated.toNat | none => 0)
        , .u8 (match h.stage with | .failed .overtaken => 1 | .failed .flushed => 2 | .armed | .filling | .ready => 0) ]
    let finding (f : Finding) : List Field :=
      [ .u8 (match f.kind with
          | .channelRange => 1 | .channelClash => 2 | .kindChannelReused => 3 | .channelShared => 4 | .curveUnloaded => 5
          | .curveOrder => 6 | .levelOrder => 7 | .contactOrder => 8 | .frameBudget => 9 | .coilOpen => 10 | .coilShort => 11
          | .adjacentDefects => 12 | .tooManyDefects => 13)
      , .u8 (if f.kind = .coilOpen ∨ f.kind = .coilShort then 0 else 1)
      , .u8 (match f.axis with | none => 0 | some .x => 1 | some .y => 2)
      , .byte (match f.index with | none => 0 | some n => n), .byte (match f.index2 with | none => 0 | some n => n) ]
    let status : Reply :=
      { result := .ok
        fields :=
          [ .byte (match s.engine with | .halted => 0 | .checking _ => 1 | .idle => 2 | .scanning _ => 3)
          , .byte (s.hold.p0.toNat + 2 * s.hold.p1.toNat), .byte (s.run.p0.toNat + 2 * s.run.p1.toNat)
          , .byte s.tile.toNat, .u32 s.ring.w, .u32 s.ring.o, .half (512 * s.items.ringBanks), .half (seqDist c.next s.ring.w)
          , .byte (match c.mode with | .sequential => 0 | .latest => 1), .byte c.mark.isSome.toNat
          , .u16 (s.pendingSet p).toHalf
          , .byte (stageOf 0), .byte (stageOf 1), .byte (stageOf 2), .byte (stageOf 3)
          , .byte (match s.slot0 with | .free => 0 | .tracking _ => 1), .byte (match s.slot1 with | .free => 0 | .tracking _ => 1) ] }
    exec (.status p) s = .next (s.answered p status .none)
    ∧ (∀ format order, (status.bytes format order).length = 1 + 26)
    ∧ (s.historyLaw → 512 ≤ 512 * s.items.ringBanks ∧ 512 * s.items.ringBanks ≤ 4096
        ∧ seqDist c.next s.ring.w ≤ 512 * s.items.ringBanks)
    ∧ (∀ (number : Byte) (u : Fin 4), number.toNat = u.val →
      exec (.curveRead p number) s = .next (s.answered p
        { result := .ok
          fields :=
            [ .byte (match s.curves[u] with | .empty => 0 | .loading _ _ _ => 1 | .loaded _ => 2)
            , .byte (match s.curves[u] with | .empty => 0 | .loading n _ _ => n | .loaded ks => ks.length)
            , .byte (s.curves[u]).knots.length
            , .byte (match s.curves[u] with | .loading _ _ (some .p0) => 1 | .loading _ _ (some .p1) => 2 | _ => 0) ]
              ++ (s.curves[u]).knots.flatMap fun k => [.half k.input, .half k.output] } .none))
    ∧ (∀ number : Byte, 4 ≤ number.toNat →
        exec (.curveRead p number) s
          = .next (s.answered p { result := .badValue, fields := [.byte 0, .byte 0, .byte 0, .byte 0] } .none))
    ∧ exec (.checkReport p) s = .next (s.answered p
        { result := .ok
          fields :=
            [ .u8 (match s.report.outcome with | .none => 0 | .running => 1 | .passed => 2 | .failed => 3 | .aborted => 4)
            , .byte s.report.truncated.toNat, .byte s.report.findings.length ] ++ s.report.findings.flatMap finding } .none)
    ∧ exec (.captureStatus p) s
        = .next (s.answered p { result := .ok, fields := shown 0 ++ shown 1 ++ shown 2 ++ shown 3 } .none)
    ∧ ∀ code : Byte, ¬ code ∈ commandCodes →
        exec (.badCommand p code) s = .next (s.answered p { result := .badCommand, fields := [] } .none)

/-- CONFIG READ answers the item id and the value stored for it, with OK, in every engine state and from either port: each id of
table 9.8.3 the value of its item. An id that is not in the table is refused with BAD_ITEM and zeros; nothing changes (R47, R149).
The ids, the ranges and the values by which the other statements name an item are those of the table (R1, R5, R6, R9, R17, R48,
R58, R99). -/
def Obligations.ConfigReadAnswersStored : Prop :=
  ∀ (s : State) (p : PortId) (id : Byte), s.receiving p = true →
    (∀ row ∈ s.items.table, row.id = id.toNat →
      exec (.configRead p id) s
        = .next (s.answered p { result := .ok, fields := [.u8 id, .half row.value] } .none))
    ∧ ((∀ row ∈ s.items.table, row.id ≠ id.toNat) →
        exec (.configRead p id) s = .next (s.answered p { result := .badItem, fields := [.u8 0, .u16 0] } .none))
    ∧ (Item.ofId id = none ↔ ∀ row ∈ s.items.table, row.id ≠ id.toNat)
    ∧ ∀ i, Item.ofId id = some i →
        { id := id.toNat, range := i.range, value := s.items.get i } ∈ s.items.table
        ∧ (i = .ringBase ↔ id.toNat = 0x30) ∧ (i = .ringBanks ↔ id.toNat = 0x31)

/-! ## The cursors -/

/-- READ in SEQUENTIAL mode fixes its header: the count is the least of n, 64 and the lag, the skipped value is reported and
set to 0, and the record places are filled later (R115, R116). -/
def Obligations.SequentialReadHeader : Prop :=
  ∀ (s : State) (p : PortId) (n : Byte), s.receiving p = true → (s.port p).cursor.mode = .sequential →
    let c := (s.port p).cursor
    let k := min (min n.toNat 64) (seqDist c.next s.ring.w)
    exec (.read p n) s
      = .next ((s.setCursor p { c with skipped := 0 }).answered p
          { result := if 64 < n.toNat then .clamped else .ok, fields := [.byte k, .half c.skipped] } (.read k 0 none))

/-- A place of a SEQUENTIAL READ is a copy of the record at next, or a VOID filler with next where none is held; when it has been
sent, next advances if it still stands at that record, not where a lap or a flush has moved it since (R106, R117, R118;
`moved`: log 17). Begun or completed, a place moves the response to that place (log 4). -/
def Obligations.SequentialReadPlaces : Prop :=
  ∀ (s : State) (p : PortId) (left : Nat) (resp : Resp) (k done : Nat), (s.port p).framing = .response left resp →
    let c := (s.port p).cursor
    (resp.xfer = .read k done none → done < k →
      exec (.readPlaceBegin p) s = .next (s.setPort p { s.port p with
        cursor := { c with moved := false }
        framing := .response left { resp with
          outBits := 8 * (4 + done * resp.format.length)
          xfer := .read k done (some (match s.ringRead c.next with | some r => .stroke r | none => .void c.next)) } }))
    ∧ (∀ r, resp.xfer = .read k done (some (.stroke r)) →
      exec (.readRecordComplete p) s = .next (s.setPort p { s.port p with
        cursor := { c with next := if c.next = r.seq ∧ c.moved = false then c.next + 1 else c.next }
        framing := .response 2000 { resp with
          outBits := 8 * (4 + (done + 1) * resp.format.length), xfer := .read k (done + 1) none } }))
    ∧ (∀ n, resp.xfer = .read k done (some (.void n)) →
      exec (.readRecordComplete p) s = .next (s.setPort p { s.port p with
        framing := .response 2000 { resp with
          outBits := 8 * (4 + (done + 1) * resp.format.length), xfer := .read k (done + 1) none } }))

/-- READ in LATEST mode moves next to W and sends the newest record of each slot and the newest BREAK written since next, at most
n of them, the newest, in ascending sequence order (R115, R120). -/
def Obligations.LatestReadPicksNewest : Prop :=
  ∀ (s : State) (p : PortId) (n : Byte), s.historyLaw → s.receiving p = true → (s.port p).cursor.mode = .latest →
    let c := (s.port p).cursor
    let place (x : Seq) := seqDist c.next x
    let last (r : Record) : Prop :=
      s.ringRead r.seq = some r ∧ place r.seq < seqDist c.next s.ring.w
      ∧ ∀ r', s.ringRead r'.seq = some r' → place r.seq < place r'.seq → place r'.seq < seqDist c.next s.ring.w →
          r'.pickClass ≠ r.pickClass
    ∃ kept : List Record,
      exec (.read p n) s = .next ((s.setCursor p { c with skipped := 0, next := s.ring.w }).answered p
        { result := if 64 < n.toNat then .clamped else .ok, fields := [.byte kept.length, .half c.skipped]
          records := kept } .none)
      ∧ kept.length ≤ 3 ∧ kept.length ≤ n.toNat
      ∧ kept.Pairwise (fun a b => place a.seq < place b.seq)
      ∧ (∀ r ∈ kept, last r)
      ∧ ∀ r, last r → r ∈ kept ∨ (kept.length = n.toNat ∧ ∀ q ∈ kept, place r.seq < place q.seq)

/-- MARK sets the mark to next. REWIND is refused with NO_MARK without one; with one, next goes back to the mark, or to O with
PARTIAL and the shortfall added to skipped when W has passed the mark by more than the ring holds; the mark persists (R121,
R122; the zeros of a refusal: R149, log 9). -/
def Obligations.MarkAndRewind : Prop :=
  ∀ (s : State) (p : PortId), s.receiving p = true →
    let c := (s.port p).cursor
    exec (.mark p) s
      = .next ((s.setCursor p { c with mark := some c.next }).answered p { result := .ok, fields := [.u32 c.next] } .none)
    ∧ (c.mark = none →
        exec (.rewind p) s = .next (s.answered p { result := .noMark, fields := [.u32 0, .half 0] } .none))
    ∧ (∀ m, c.mark = some m → seqDist m s.ring.w ≤ seqDist s.ring.o s.ring.w →
        exec (.rewind p) s
          = .next ((s.setCursor p { c with next := m }).answered p
              { result := .ok, fields := [.u32 m, .half c.skipped] } .none))
    ∧ (∀ m, c.mark = some m → seqDist s.ring.o s.ring.w < seqDist m s.ring.w →
        let lost := min (c.skipped + (seqDist m s.ring.w - seqDist s.ring.o s.ring.w)) 65535
        exec (.rewind p) s
          = .next ((s.setCursor p { c with next := s.ring.o, skipped := lost }).answered p
              { result := .partialDone, fields := [.u32 s.ring.o, .half lost] } .none))

/-- CURSOR SETUP stores a mode and two thresholds clamped to the capacity, and leaves next, the mark and skipped; a mode that
names none is refused with BAD_VALUE. PORT SETUP stores the four settings and starts or stops the lapse timer, its response
already under them; a format or byte order that names none is refused. The codes are those of section 9.8 (R125, R152, R154,
R159; the zeros of a refusal: R149, log 9). -/
def Obligations.SetupsStoreSettings : Prop :=
  ∀ (s : State) (p : PortId), s.receiving p = true →
    (∀ (mode : Byte) (ready margin : Half) (m : CursorMode),
      mode.toNat = (match m with | .sequential => 0 | .latest => 1) →
      let r := max 1 (min ready.toNat s.capacity)
      let f := min margin.toNat (s.capacity - 1)
      exec (.cursorSetup p mode ready margin) s
        = .next ((s.setCursor p { (s.port p).cursor with mode := m, ready := r, margin := f }).answered p
            { result := if r = ready.toNat ∧ f = margin.toNat then .ok else .clamped
              fields := [.u8 mode, .half r, .half f] } .none))
    ∧ (∀ (mode : Byte) (ready margin : Half), 2 ≤ mode.toNat →
        exec (.cursorSetup p mode ready margin) s
          = .next (s.answered p { result := .badValue, fields := [.byte 0, .half 0, .half 0] } .none))
    ∧ (∀ (format order lapse : Byte) (enable : Half) (f : Format) (o : ByteOrder),
        format.toNat = (match f with | .basic => 0 | .timed => 1 | .full => 2) →
        order.toNat = (match o with | .little => 0 | .big => 1) →
        exec (.portSetup p format order lapse enable) s
          = .next ((s.setPort p { s.port p with
              settings := { format := f, order := o, lapse := lapse.toNat, enable := CondSet.ofHalf enable }
              lapseTimer := if lapse.toNat = 0 then none else some (10000 * lapse.toNat) }).answered p
              { result := .ok, fields := [.u8 format, .u8 order, .u8 lapse, .u16 (enable &&& 0x07FF#16)] } .none)
        ∧ (CondSet.ofHalf enable).toHalf = enable &&& 0x07FF#16)
    ∧ (∀ (format order lapse : Byte) (enable : Half), 3 ≤ format.toNat ∨ 2 ≤ order.toNat →
        exec (.portSetup p format order lapse enable) s
          = .next (s.answered p { result := .badValue, fields := [.byte 0, .byte 0, .byte 0, .half 0] } .none))

/-! ## Attention -/

/-- ACK removes from the pending set every latched condition it names: in the two-byte form, the set with bits 2 to 10 of the
named set cleared. Level conditions stay as their tests give them, bits beyond the eleven are ignored, the answer is the set
that is left, and nothing else changes (R162). -/
def Obligations.AckRemovesNamed : Prop :=
  ∀ (s : State) (p : PortId) (conds : Half), s.receiving p = true →
    let left := (s.pendingSet p).toHalf &&& ~~~(conds &&& 0x07FC#16)
    ∃ l : Latched,
      exec (.ack p conds) s
        = .next ((s.setPort p { s.port p with latched := l }).answered p { result := .ok, fields := [.u16 left] } .none)
      ∧ ((s.setPort p { s.port p with latched := l }).pendingSet p).toHalf = left

/-- ATTN of a port is asserted exactly while its pending and enable sets have a condition in common, and the pending set shows
READY and NEAR_FULL exactly while the tests of the cursor hold. A set of conditions has one bit for each, in the order READY,
NEAR_FULL, LAPPED, PROX, CAPTURE, ENGINE, CHECK, QUIET, RING, LAPSE, PEER, and no others (R123, R124, R159, R160, R161). -/
def Obligations.AttentionFollowsSets : Prop :=
  ∀ (s : State) (p : PortId),
    let c := (s.port p).cursor
    let lag := seqDist c.next s.ring.w
    (s.attn p = true ↔ (s.pendingSet p).toHalf &&& (s.port p).settings.enable.toHalf ≠ 0#16)
    ∧ ((s.pendingSet p).toHalf.getLsbD 0 = true ↔
        (c.mode = .sequential ∧ c.ready ≤ lag) ∨ (c.mode = .latest ∧ 1 ≤ lag))
    ∧ ((s.pendingSet p).toHalf.getLsbD 1 = true ↔ c.mode = .sequential ∧ s.capacity - c.margin ≤ lag)
    ∧ (s.pendingSet p).latched = (s.port p).latched
    ∧ ∀ set : CondSet,
        let l := set.latched
        (List.range 16).map set.toHalf.getLsbD
          = [set.ready, set.nearFull, l.lapped, l.prox, l.capture, l.engine, l.check, l.quiet, l.ring, l.lapse, l.peer,
              false, false, false, false, false]

/-! ## The loss of a port's claims -/

/-- The lapse timer of a port that has run out (log 10) becomes STOPPED. A port that is engaged lapses: it is withdrawn from both
sets with what that brings at the engine, its captures and curves are released, LAPSE is raised on it and PEER on the other
port; its cursor, settings and pending set are kept, and a READ goes on. A port that is not engaged loses nothing (R29, R38, R145,
R154, R155). What may fall together with the records of the stop, and that
nothing of the lapsing port itself does, is log 16. -/
def Obligations.LapseTakesClaims : Prop :=
  ∀ (s : State) (p : PortId), (s.port p).lapseTimer = some 0 →
    (s.engaged p = true ↔ s.hold.has p = true ∨ s.run.has p = true ∨ (∃ e h, s.entry e = some h ∧ h.owner = p)
        ∨ ∃ (c : Fin 4) (n : Nat) (ks : List Knot), s.curves[c] = .loading n ks (some p))
    ∧ (s.engaged p = false → exec (.lapseTimerExpiry p) s = .next (s.setPort p { s.port p with lapseTimer := none }))
    ∧ (s.engaged p = true → ∃ u v t : State, s.withdrawn u p ∧ u.claimsReleased v p
        ∧ exec (.lapseTimerExpiry p) s = .next t
        ∧ t.port p = { v.port p with lapseTimer := none, latched := { (v.port p).latched with lapse := true } }
        ∧ t.port p.other = { v.port p.other with latched := { (v.port p.other).latched with peer := true } }
        ∧ t = { v with port0 := t.port0, port1 := t.port1 })

/-- PORT RESET withdraws the port and releases its captures and curves as a lapse does, and then returns the port's own cursor,
settings, lapse timer and pending set to their values, next standing at W after the records of any stop; PEER is raised on the
other port, LAPSE on neither, ATTN of the port is deasserted, and the response is W under the settings after reset (R29, R38, R112,
R127, R145, R152, R157). What may fall together with the records of the stop is log 16. -/
def Obligations.PortResetReturnsPort : Prop :=
  ∀ (s : State) (p : PortId), s.receiving p = true →
    ∃ u v t : State, s.withdrawn u p ∧ u.claimsReleased v p
      ∧ exec (.portReset p) s = .next (t.answered p { result := .ok, fields := [.u32 v.ring.w] } .none)
      ∧ t.port p
          = { framing := (s.port p).framing, miso := (s.port p).miso
              settings := { format := .basic, order := .little, lapse := 0, enable := {} }
              lapseTimer := none, latched := {}
              cursor := { next := v.ring.w, mode := .sequential, mark := none, ready := 1, margin := 256, skipped := 0 } }
      ∧ t.port p.other = { v.port p.other with latched := { (v.port p.other).latched with peer := true } }
      ∧ t = { v with port0 := t.port0, port1 := t.port1 }
      ∧ t.attn p = false

/-! ## The engine -/

/-- HOLD puts the port into the hold set and takes the engine to HALTED, the run set kept. From IDLE and CHECKING that is all, but
that the check is aborted, the map made INVALID and empty and the findings kept; ENGINE is raised on both ports by a change of
state alone. From SCANNING frames stop with break cause HALTED: the LEAVE records of S0 and S1 and the BREAK are appended, and a
FLUSH or another event of the other port that falls together with one of them may be taken before it (R109, R128; log 16);
beside the ring, the slots, the entries, the cursors and the conditions that these touch nothing changes (R14, R33, R34, R39,
R45, R55, R71, R72). -/
def Obligations.HoldTakesEffect : Prop :=
  ∀ (s : State) (p : PortId), s.receiving p = true →
    let joined : State := { s with hold := s.hold.insert p, engine := .halted }
    let reply : Reply := { result := .ok, fields := [.byte 0, .u8 (s.hold.insert p).toByte, .u8 s.run.toByte] }
    (s.engine = .halted → exec (.hold p) s = .next (joined.answered p reply .none))
    ∧ (s.engine = .idle → exec (.hold p) s = .next ((joined.raiseBoth .engine).answered p reply .none))
    ∧ (∀ pass, s.engine = .checking pass →
        exec (.hold p) s
          = .next ((({ joined with
              report := { s.report with outcome := .aborted }
              map := { valid := false, x := ⟨[], 0⟩, y := ⟨[], 0⟩ } } : State).raiseBoth .engine).answered p reply .none))
    ∧ (∀ r, s.engine = .scanning r →
        ∃ t, exec (.hold p) s = .next (t.answered p reply .none)
          ∧ ({ s with hold := s.hold.insert p } : State).stopped t p r.start .halted .halted)

/-- STOP takes the port out of the run set. Where that empties the set in SCANNING, frames stop with break cause STOPPED, the LEAVE
records of S0 and S1 and the BREAK appended, and the engine goes to IDLE; a FLUSH or another event of the other port that falls
together with an append may be taken before it (R109, R128; log 16). Otherwise nothing else changes (R37, R39, R55, R71, R72). -/
def Obligations.StopLeavesRunSet : Prop :=
  ∀ (s : State) (p : PortId), s.receiving p = true →
    let left : State := { s with run := s.run.erase p }
    (s.engine.isScanning = false ∨ left.run.isEmpty = false →
      exec (.stop p) s
        = .next (left.answered p
            { result := .ok
              fields :=
                [ .byte (match s.engine with | .halted => 0 | .checking _ => 1 | .idle => 2 | .scanning _ => 3)
                , .u8 s.hold.toByte, .u8 left.run.toByte ] } .none))
    ∧ (∀ r, s.engine = .scanning r → left.run.isEmpty = true →
        ∃ t, exec (.stop p) s
            = .next (t.answered p { result := .ok, fields := [.byte 2, .u8 s.hold.toByte, .byte 0] } .none)
          ∧ left.stopped t p r.start .stopped .idle)

/-- RUN puts the port into the run set and changes nothing else, but that in IDLE the engine goes to SCANNING, raising ENGINE on
both ports, and the first frame starts at that moment with no sweep in progress; both slots are FREE then (R57), so it takes no
tracking readings and its guard of 100 us begins at once (R36, R49, R51, R53). -/
def Obligations.RunJoinsRunSet : Prop :=
  ∀ (s : State) (p : PortId), s.receiving p = true →
    let joined : State := { s with run := s.run.insert p }
    (s.engine ≠ .idle →
      exec (.run p) s = .next (joined.answered p
        { result := .ok
          fields :=
            [ .byte (match s.engine with | .halted => 0 | .checking _ => 1 | .idle => 2 | .scanning _ => 3)
            , .u8 s.hold.toByte, .u8 (s.run.insert p).toByte ] } .none))
    ∧ (s.engine = .idle → s.slot0 = .free → s.slot1 = .free →
        exec (.run p) s = .next ((({ joined with
            engine := .scanning
              { start := s.counter
                frame := some
                  { t := 0, gating := if s.items.quietGating then .active else .suspended, stage := .guarding 100 }
                sweep := none } } : State).raiseBoth .engine).answered p
          { result := .ok, fields := [.byte 3, .u8 s.hold.toByte, .u8 (s.run.insert p).toByte] } .none))

/-- RELEASE is refused with NOT_HOLDING from a port that does not hold. From a holder it takes the port out of the hold set, and
where that empties the set the check starts: a configuration check with findings fails at once, the map kept; without, a FULL
sensing pass begins at X coil 0 with the map INVALID and empty, in mode FULL or with an INVALID map; in mode REUSE with a VALID
map the findings derived from it, coil by coil, decide at once (R9, R10, R13, R33, R35, R39, R40, R43, R44). -/
def Obligations.ReleaseStartsCheck : Prop :=
  ∀ (s : State) (p : PortId), s.receiving p = true →
    let left : State := { s with hold := s.hold.erase p }
    let reply (e : Engine) (rc : ResultCode) (h : PortSet) : Reply :=
      { result := rc
        fields :=
          [ .byte (match e with | .halted => 0 | .checking _ => 1 | .idle => 2 | .scanning _ => 3)
          , .u8 h.toByte, .u8 s.run.toByte ] }
    (s.hold.has p = false → exec (.release p) s = .next (s.answered p (reply s.engine .notHolding s.hold) .none))
    ∧ (s.hold.has p = true → left.hold.isEmpty = false →
        exec (.release p) s = .next (left.answered p (reply s.engine .ok left.hold) .none))
    ∧ (s.hold.has p = true → left.hold.isEmpty = true →
        ∃ t, exec (.release p) s = .next (t.answered p (reply t.engine .ok left.hold) .none) ∧ left.checkStarted t)

/-! ## The check -/

/-- A coil whose sensing is over (log 10) and that is not the last one is classified by its level, a defective one listed in the
map with its findings in the report, and the next coil's 50 us begin; Y coil 0 follows the last X coil and is adjacent to none
(R8, R10, R11, R44). Nothing else changes. -/
def Obligations.CoilClassified : Prop :=
  ∀ (s : State) (pass : SensePass) (level : BitVec 10) (a : Axis) (n : Nat),
    s.engine = .checking pass → pass.left = 0 → s.report.findings.length ≤ 16 →
    (if pass.coil + 1 < s.items.coils pass.axis then a = pass.axis ∧ n = pass.coil + 1
      else pass.axis = .x ∧ a = .y ∧ n = 0) →
    let stays := pass.coil + 1 < s.items.coils pass.axis
    let defective := level.toNat ≤ 63 ∨ 961 ≤ level.toNat
    (¬ defective →
      exec (.coilSensingEnd level) s = .next { s with
        engine := .checking
          { pass with axis := a, coil := n, left := 50, prevBad := false, tooMany := decide stays && pass.tooMany } })
    ∧ (defective →
        let reason : DefectReason := if level.toNat ≤ 63 then .openLoop else .shortLoop
        let before := s.map.axis pass.axis
        let found := before.listed.length + before.unlisted + 1
        let above := s.items.maxDefects < found ∧ pass.tooMany = false
        let made : List Finding :=
          [⟨if level.toNat ≤ 63 then .coilOpen else .coilShort, some pass.axis, some pass.coil, none⟩]
          ++ (if pass.prevBad = true then [⟨.adjacentDefects, some pass.axis, some (pass.coil - 1), some pass.coil⟩] else [])
          ++ (if above then [⟨.tooManyDefects, some pass.axis, some pass.coil, none⟩] else [])
        exec (.coilSensingEnd level) s = .next { s with
          engine := .checking
            { axis := a, coil := n, left := 50
              prevBad := decide stays
              tooMany := decide stays && (pass.tooMany || decide above)
              failed := pass.failed || pass.prevBad || decide above }
          map := s.map.setAxis pass.axis
            (if before.listed.length < 8 then { before with listed := before.listed ++ [⟨pass.coil, reason⟩] }
              else { before with unlisted := before.unlisted + 1 })
          report := { s.report with
            findings := (s.report.findings ++ made).take 16
            truncated := s.report.truncated || decide (16 < s.report.findings.length + made.length) } })

/-- When the last Y coil has been classified, listed with its findings when it is defective, the map is VALID and the check
completes: FAILED when any finding of it was FAIL, back to HALTED with CHECK and ENGINE raised on both ports; PASSED otherwise,
to IDLE, or to SCANNING when the run set is not empty (R8, R10, R11, R12, R43, R44). -/
def Obligations.SensingPassCompletes : Prop :=
  ∀ (s : State) (pass : SensePass) (level : BitVec 10),
    s.engine = .checking pass → pass.left = 0 → pass.axis = .y → s.items.yCoils ≤ pass.coil + 1 →
    s.report.findings.length ≤ 16 →
    let defective := level.toNat ≤ 63 ∨ 961 ≤ level.toNat
    let above := s.items.maxDefects < s.map.y.listed.length + s.map.y.unlisted + 1 ∧ pass.tooMany = false
    let failed := pass.failed = true ∨ (defective ∧ (pass.prevBad = true ∨ above))
    let made : List Finding :=
      [⟨if level.toNat ≤ 63 then .coilOpen else .coilShort, some .y, some pass.coil, none⟩]
      ++ (if pass.prevBad = true then [⟨.adjacentDefects, some .y, some (pass.coil - 1), some pass.coil⟩] else [])
      ++ (if above then [⟨.tooManyDefects, some .y, some pass.coil, none⟩] else [])
    ∃ t, exec (.coilSensingEnd level) s = .next t
      ∧ t.map.valid = true ∧ t.map.x = s.map.x
      ∧ (¬ defective → t.map.y = s.map.y ∧ t.report.findings = s.report.findings ∧ t.report.truncated = s.report.truncated)
      ∧ (defective →
          t.map.y = (if s.map.y.listed.length < 8 then
              { s.map.y with
                listed := s.map.y.listed ++ [⟨pass.coil, if level.toNat ≤ 63 then .openLoop else .shortLoop⟩] }
            else { s.map.y with unlisted := s.map.y.unlisted + 1 })
          ∧ t.report.findings = (s.report.findings ++ made).take 16
          ∧ t.report.truncated = (s.report.truncated || decide (16 < s.report.findings.length + made.length)))
      ∧ (failed → t.engine = .halted ∧ t.report.outcome = .failed)
      ∧ (¬ failed → t.report.outcome = .passed
          ∧ (s.run.isEmpty = true → t.engine = .idle)
          ∧ (s.run.isEmpty = false → ∃ r f, t.engine = .scanning r ∧ r.start = s.counter ∧ r.sweep = none ∧ r.frame = some f))
      ∧ (∀ q, t.port q = { s.port q with
          latched := { (s.port q).latched with
            engine := true, check := (s.port q).latched.check || decide (t.engine = .halted) } })
      ∧ t = { s with engine := t.engine, map := t.map, report := t.report, port0 := t.port0, port1 := t.port1 }

/-- The configuration check makes six groups of findings, all FAIL, in this order and each group ascending: used channels outside
200 000 to 800 000 Hz; pairs of used channels less than 8 000 Hz apart; enabled kinds that use a channel twice, with the lowest;
pairs of enabled kinds that share one; the curves that enabled kinds name and that are not LOADED, or fault at a knot; the levels,
the contact levels and the frame budget. So it makes none exactly when the configuration makes sense (R7, R21, R23, R41, R42). -/
def Obligations.ConfigurationCheckVerdict : Prop :=
  ∀ (x : Items) (curves : Vector Curve 4),
    let enabled (k : Fin 4) : Prop := (x.kinds[k]).enabled = true
    let channels (k : Fin 4) : List Chan := [(x.kinds[k]).tip] ++ (x.kinds[k]).eraser.toList ++ [(x.kinds[k]).collar]
    let uses (k : Fin 4) (c : Chan) : Prop := enabled k ∧ c ∈ channels k
    let used (c : Chan) : Prop := ∃ k, uses k c
    let hz (c : Chan) : Nat := 62500 * (x.chans[c]).m / (x.chans[c]).n
    let firstFault (ks : List Knot) (j : Nat) : Prop :=
      (ks.head?.map Knot.input ≠ some 0 ∧ j = 0)
      ∨ (ks.head?.map Knot.input = some 0 ∧
          let wrong (i : Nat) : Prop := ∃ a b, 0 < i ∧ ks[i - 1]? = some a ∧ ks[i]? = some b
            ∧ (b.input ≤ a.input ∨ b.output < a.output)
          (wrong j ∧ ∀ i < j, ¬ wrong i)
          ∨ ((∀ i, ¬ wrong i) ∧ ks.getLast?.map Knot.input ≠ some 4095 ∧ j = ks.length - 1))
    let rising (fs : List Finding) : Prop := fs.Pairwise fun f g =>
      f.index.getD 0 < g.index.getD 0 ∨ (f.index = g.index ∧ f.index2.getD 0 < g.index2.getD 0)
    (∃ range clash reused shared curve : List Finding,
      configFindings x curves = range ++ clash ++ reused ++ shared ++ curve
        ++ (if x.leaveLevel < x.enterLevel then [] else [⟨.levelOrder, none, none, none⟩])
        ++ (if x.contactOff < x.contactOn then [] else [⟨.contactOrder, none, none, none⟩])
        ++ (if x.framePeriod < 56 * x.dwell + 100 then [⟨.frameBudget, none, none, none⟩] else [])
      ∧ rising range ∧ rising clash ∧ rising reused ∧ rising shared ∧ rising curve
      ∧ (∀ f, f ∈ range ↔ ∃ c : Chan, used c ∧ (hz c < 200000 ∨ 800000 < hz c) ∧ f = ⟨.channelRange, none, some c.val, none⟩)
      ∧ (∀ f, f ∈ clash ↔ ∃ c d : Chan, c < d ∧ used c ∧ used d ∧ (hz c - hz d) + (hz d - hz c) < 8000
          ∧ f = ⟨.channelClash, none, some c.val, some d.val⟩)
      ∧ (∀ f, f ∈ reused ↔ ∃ (k : Fin 4) (c : Chan), enabled k ∧ 1 < (channels k).count c
          ∧ (∀ d < c, ¬ 1 < (channels k).count d) ∧ f = ⟨.kindChannelReused, none, some k.val, some c.val⟩)
      ∧ (∀ f, f ∈ shared ↔ ∃ k l : Fin 4, k < l ∧ (∃ c, uses k c ∧ uses l c)
          ∧ f = ⟨.channelShared, none, some k.val, some l.val⟩)
      ∧ (∀ f, f ∈ curve ↔ ∃ (c k : Fin 4), enabled k ∧ (x.kinds[k]).curve = c ∧ (∀ l < k, ¬ (enabled l ∧ (x.kinds[l]).curve = c))
          ∧ (((∀ ks, curves[c] ≠ .loaded ks) ∧ f = ⟨.curveUnloaded, none, some c.val, some k.val⟩)
            ∨ ∃ ks j, curves[c] = .loaded ks ∧ firstFault ks j ∧ f = ⟨.curveOrder, none, some c.val, some j⟩)))
    ∧ (∀ f ∈ configFindings x curves, f.kind ≠ .coilOpen ∧ f.kind ≠ .coilShort)
    ∧ (configFindings x curves = [] ↔
        (∀ k c, uses k c → 200000 ≤ hz c ∧ hz c ≤ 800000)
        ∧ (∀ k l c d, uses k c → uses l d → c ≠ d → 8000 ≤ (hz c - hz d) + (hz d - hz c))
        ∧ (∀ k, enabled k → (channels k).Nodup)
        ∧ (∀ k l c, uses k c → uses l c → k = l)
        ∧ (∀ k, enabled k → ∃ knots, curves[(x.kinds[k]).curve] = .loaded knots
            ∧ knots.head?.map Knot.input = some 0 ∧ knots.getLast?.map Knot.input = some 4095
            ∧ (knots.map Knot.input).Pairwise (· < ·) ∧ (knots.map Knot.output).Pairwise (· ≤ ·))
        ∧ x.leaveLevel < x.enterLevel ∧ x.contactOff < x.contactOn ∧ 56 * x.dwell + 100 ≤ x.framePeriod)

/-! ## Configuration -/

/-- CONFIG WRITE and CURVE BEGIN test the state, then the hold set, then what they name, then the value, and the first test that
fails gives the result and changes nothing; a refused CONFIG WRITE answers the item id and the unchanged value (R24, R46, R100).
The id that it shows where it names no item is the request's, and the value 0 (R46; log 9). -/
def Obligations.ConfigurationGateTests : Prop :=
  ∀ (s : State) (p : PortId) (id : Byte) (value : Half) (number count : Byte), s.receiving p = true →
    let write (rc : ResultCode) := exec (.configWrite p id value) s
      = .next (s.answered p
          { result := rc
            fields := [.u8 id, .half (match Item.ofId id with | some i => s.items.get i | none => 0)] } .none)
    let begin_ (rc : ResultCode) := exec (.curveBegin p number count) s
      = .next (s.answered p
          { result := rc
            fields :=
              match fourOf number with
              | some c => [.byte (s.curves[c]).code, .byte (s.curves[c]).knots.length]
              | none => [.byte 0, .byte 0] } .none)
    (s.engine ≠ .halted → write .refusedState ∧ begin_ .refusedState)
    ∧ (s.engine = .halted → s.hold.has p = false → write .notHolding ∧ begin_ .notHolding)
    ∧ (s.engine = .halted → s.hold.has p = true →
        (Item.ofId id = none → write .badItem)
        ∧ (∀ i, Item.ofId id = some i → (i = .ringBase ∨ i = .ringBanks) → (∃ e, s.entry e ≠ none) →
            write .capturesPresent)
        ∧ (∀ i n, Item.ofId id = some i → i.range = .codes n → n ≤ value.toNat → write .badValue)
        ∧ (4 ≤ number.toNat → begin_ .badValue)
        ∧ (∀ c n ks, fourOf number = some c → s.curves[c] = .loading n ks (some p.other) → s.hold.has p.other = true →
            begin_ .notOwner))

/-- An accepted CONFIG WRITE of an item that is no ring geometry stores the value, clamped to the range that table 9.8.3 gives the
item of that id, an odd pitch lowered by one; the answer is the value stored, CLAMPED when it is not the value written; every
other item of the table keeps its value, and a coil count makes the map INVALID and empty (R1, R2, R5, R6, R9, R17, R18, R46,
R48, R58). -/
def Obligations.ConfigWriteStores : Prop :=
  ∀ (s : State) (p : PortId) (id : Byte) (value : Half) (row : ItemRow),
    s.receiving p = true → s.engine = .halted → s.hold.has p = true → row ∈ s.items.table → row.id = id.toNat →
    row.id ≠ 0x30 → row.id ≠ 0x31 → (∀ n, row.range = .codes n → value.toNat < n) →
    let v :=
      match row.range with
      | .codes _ => value.toNat
      | .numeric low high =>
        let c := max low (min value.toNat high)
        if row.id = 0x03 ∧ c % 2 = 1 then c - 1 else c
    ∃ items : Items,
      exec (.configWrite p id value) s
        = .next (({ s with
            items := items
            map := if row.id = 0x01 ∨ row.id = 0x02 then { valid := false, x := ⟨[], 0⟩, y := ⟨[], 0⟩ } else s.map }
            : State).answered p
              { result := if v = value.toNat then .ok else .clamped, fields := [.u8 id, .half v] } .none)
      ∧ items.table = s.items.table.map fun r => if r.id = row.id then { r with value := v } else r

/-- An accepted CONFIG WRITE of ring base or ring banks clamps it, lowers the bank count to 8 minus the base where the two exceed
8, and flushes: O becomes W, the write position 0, each cursor stands at W without mark and with its thresholds brought within
the new capacity, and RING is raised on both ports; nothing else changes, the store neither (R99, R100, R108, R118, R126; `moved`: log 17). -/
def Obligations.GeometryWriteFlushes : Prop :=
  ∀ (s : State) (p : PortId) (id : Byte) (value : Half) (i : Item),
    s.receiving p = true → s.engine = .halted → s.hold.has p = true → Item.ofId id = some i →
    (i = .ringBase ∨ i = .ringBanks) → (∀ e, s.entry e = none) →
    let base := if i = .ringBase then min value.toNat 7 else s.items.ringBase
    let wanted := if i = .ringBanks then max 1 (min value.toNat 8) else s.items.ringBanks
    let banks := if 8 < base + wanted then 8 - base else wanted
    let shown := if i = .ringBase then base else banks
    let unchanged := shown = value.toNat ∧ banks = wanted
    let moved (c : Cursor) : Cursor :=
      { c with
        next := s.ring.w, mark := none, moved := true
        ready := min c.ready (512 * banks), margin := min c.margin (512 * banks - 1) }
    exec (.configWrite p id value) s
      = .next (({ s with
          items := { s.items with ringBase := base, ringBanks := banks }
          ring := { w := s.ring.w, o := s.ring.w, writePos := 0 }
          port0 := { s.port0 with cursor := moved s.port0.cursor, latched := { s.port0.latched with ring := true } }
          port1 := { s.port1 with cursor := moved s.port1.cursor, latched := { s.port1.latched with ring := true } } }
          : State).answered p
            { result := if unchanged then .ok else .clamped, fields := [.u8 id, .half shown] } .none)

/-- "Configuration items, the states, knot counts and knots of curves, and ring geometry change only while the engine is HALTED":
whatever the command, full reset apart, a state outside HALTED keeps every item and, but for a load owner, every curve (R46). -/
def Obligations.ConfigurationFixedOutsideHalted : Prop :=
  ∀ (i : Instr) (s t : State), exec i s = .next t → s.engine ≠ .halted → (∀ a b c d e, i ≠ .fullReset a b c d e) →
    t.items = s.items
    ∧ ∀ c : Fin 4, t.curves[c] = s.curves[c] ∨ t.curves[c] = (s.curves[c]).orphan .p0
        ∨ t.curves[c] = (s.curves[c]).orphan .p1

/-- CURVE BEGIN and CURVE KNOT load a curve: an accepted begin clears it, with the count clamped to 2..16 and the port as owner,
whatever it held; an accepted knot is clamped and appended, and the last one makes the curve LOADED without owner. A knot is
refused with REFUSED_STATE outside HALTED, with BAD_VALUE for a number that names no curve, with CURVE_FULL for a LOADED curve
and with NOT_OWNER for one the port does not own, and shows the curve as it stands. Only that curve changes (R24, R25, R26, R27).
That HALTED alone is tested, not that a port holds the part, is R26; where R28 says otherwise see log 15. -/
def Obligations.CurveLoading : Prop :=
  ∀ (s : State) (p : PortId) (number : Byte) (input output : Half), s.receiving p = true →
    let shown (rc : ResultCode) (c : Fin 4) : Reply :=
      { result := rc
        fields :=
          [ .byte (match s.curves[c] with | .empty => 0 | .loading _ _ _ => 1 | .loaded _ => 2)
          , .byte (match s.curves[c] with | .empty => 0 | .loading _ ks _ => ks.length | .loaded ks => ks.length) ] }
    let refused (reply : Reply) := exec (.curveKnot p number input output) s = .next (s.answered p reply .none)
    (s.engine ≠ .halted → 4 ≤ number.toNat → refused { result := .refusedState, fields := [.u8 0, .u8 0] })
    ∧ (s.engine = .halted → 4 ≤ number.toNat → refused { result := .badValue, fields := [.u8 0, .u8 0] })
    ∧ ∀ c : Fin 4, number.toNat = c.val →
      (s.engine ≠ .halted → refused (shown .refusedState c))
      ∧ (s.engine = .halted → (∃ ks, s.curves[c] = .loaded ks) → refused (shown .curveFull c))
      ∧ (s.engine = .halted → (∀ ks, s.curves[c] ≠ .loaded ks) → (∀ n ks, s.curves[c] ≠ .loading n ks (some p)) →
          refused (shown .notOwner c))
      ∧ (∀ (n : Nat) (ks : List Knot), s.engine = .halted → s.curves[c] = .loading n ks (some p) →
          let k : Knot := { input := min input.toNat 4095, output := min output.toNat 8191 }
          let done := ks.length + 1 = n
          exec (.curveKnot p number input output) s
            = .next (({ s with
                curves := s.curves.set c (if done then .loaded (ks ++ [k]) else .loading n (ks ++ [k]) (some p)) }
                : State).answered p
                  { result := if input.toNat ≤ 4095 ∧ output.toNat ≤ 8191 then .ok else .clamped
                    fields := [.byte (if done then 2 else 1), .byte (ks.length + 1)] } .none))
      ∧ (∀ count : Byte, s.engine = .halted → s.hold.has p = true →
          ¬ ((∃ n ks, s.curves[c] = .loading n ks (some p.other)) ∧ s.hold.has p.other = true) →
          let n := max 2 (min count.toNat 16)
          exec (.curveBegin p number count) s
            = .next (({ s with curves := s.curves.set c (.loading n [] (some p)) } : State).answered p
                { result := if n = count.toNat then .ok else .clamped, fields := [.byte 1, .byte 0] } .none))

/-! ## The ring -/

/-- FLUSH empties the ring in every engine state: O becomes W and the write position stays; each cursor stands at W without mark,
skipped as it was; every ARMED or FILLING entry becomes FAILED with FLUSHED, CAPTURE raised on its owner's port; RING is raised
on both ports. Nothing else changes, the stored records neither (R107, R108, R118; `moved`: log 17). A FLUSH and an append may be
taken in either order, and the record takes the same sequence: with the FLUSH first it is the one record held and each cursor has
a lag of 1; with the append first it is gone and the lag is 0 (R109). -/
def Obligations.FlushEmptiesRing : Prop :=
  ∀ (s : State) (p : PortId), s.receiving p = true →
    let failed (x : Option Held) : Option Held :=
      x.map fun h => if h.stage = .armed ∨ h.stage = .filling then { h with stage := .failed .flushed } else h
    let hit (q : PortId) : Prop := ∃ e h, s.entry e = some h ∧ (h.stage = .armed ∨ h.stage = .filling) ∧ h.owner = q
    ∃ t : State, exec (.flush p) s = .next (t.answered p { result := .ok, fields := [.u32 s.ring.w, .u32 s.ring.w] } .none)
      ∧ t = { s with
          ring := { s.ring with o := s.ring.w }, entries := s.entries.map failed, port0 := t.port0, port1 := t.port1 }
      ∧ (∀ q, ∃ capture : Bool, (capture = true ↔ (s.port q).latched.capture = true ∨ hit q)
          ∧ t.port q = { s.port q with
              cursor := { (s.port q).cursor with next := s.ring.w, mark := none, moved := true }
              latched := { (s.port q).latched with ring := true, capture := capture } })
      ∧ ∀ (time : Time) (body : RecordBody), s.ring.writePos < s.capacity →
          let u := (t.answered p { result := .ok, fields := [.u32 s.ring.w, .u32 s.ring.w] } .none).append time body
          (u.ring.o = s.ring.w ∧ u.ring.w = s.ring.w + 1 ∧ u.count = 1 ∧ u.entries = t.entries
            ∧ u.ringRead s.ring.w = some { seq := s.ring.w, tile := s.tile, time := time, body := body }
            ∧ ∀ q, (u.port q).cursor.next = s.ring.w)
          ∧ ∃ v, exec (.flush p) (s.append time body) = .next v
            ∧ v.ring.o = s.ring.w + 1 ∧ v.ring.w = s.ring.w + 1 ∧ v.ringRead s.ring.w = none
            ∧ ∀ q, (v.port q).cursor.next = s.ring.w + 1

/-- An append writes one record, with W as its sequence and the tile number of the part, at the write position; afterwards the
ring holds exactly the records it held, but for the oldest where it was full, and the new one, each read back as it was
written (R101, R103, R104, R105, R106). -/
def Obligations.AppendKeepsHistory : Prop :=
  ∀ (s : State) (time : Time) (body : RecordBody), s.historyLaw →
    let t := s.append time body
    let full := s.count = s.capacity
    t.ring.w = s.ring.w + 1 ∧ t.ring.o = (if full then s.ring.o + 1 else s.ring.o)
    ∧ t.ringRead s.ring.w = some { seq := s.ring.w, tile := s.tile, time := time, body := body }
    ∧ (∀ n, s.holds n = true → ¬ (full ∧ n = s.ring.o) → t.holds n = true ∧ t.ringRead n = s.ringRead n)
    ∧ (full → t.holds s.ring.o = false)
    ∧ (∀ n, t.holds n = true → n = s.ring.w ∨ s.holds n = true)
    ∧ s.appended t 1

/-- An append to a full ring overwrites sequence O: a SEQUENTIAL cursor standing at it moves on by one, counted in skipped with
LAPPED raised, and a LATEST cursor moves on without; a FILLING entry whose next record it was becomes FAILED with OVERTAKEN and
CAPTURE is raised on its owner's port. Every other cursor and entry stands as it was (R104, R114, R117, R140; `moved`:
log 17). -/
def Obligations.OverwriteLapsAndOvertakes : Prop :=
  ∀ (s : State) (time : Time) (body : RecordBody), s.count = s.capacity →
    let t := s.append time body
    let atOld (p : PortId) : Prop := (s.port p).cursor.next = s.ring.o
    let hit (e : Fin 4) (h : Held) : Prop :=
      s.entry e = some h ∧ h.stage = .filling
        ∧ ∃ w, h.window = some w ∧ w.start + BitVec.ofNat 32 h.copied = s.ring.o
    (∀ p, ∃ capture : Bool, (capture = true ↔ (s.port p).latched.capture = true ∨ ∃ e h, hit e h ∧ h.owner = p)
      ∧ (¬ atOld p → t.port p = { s.port p with latched := { (s.port p).latched with capture := capture } })
      ∧ (atOld p → (s.port p).cursor.mode = .sequential → t.port p = { s.port p with
          cursor := { (s.port p).cursor with
            next := s.ring.o + 1, moved := true, skipped := min ((s.port p).cursor.skipped + 1) 65535 }
          latched := { (s.port p).latched with lapped := true, capture := capture } })
      ∧ (atOld p → (s.port p).cursor.mode = .latest → t.port p = { s.port p with
          cursor := { (s.port p).cursor with next := s.ring.o + 1, moved := true }
          latched := { (s.port p).latched with capture := capture } }))
    ∧ (∀ e h, hit e h → t.entry e = some { h with stage := .failed .overtaken })
    ∧ (∀ e, (∀ h, ¬ hit e h) → t.entry e = s.entry e)
    ∧ t = { s with ring := t.ring, store := t.store, entries := t.entries, port0 := t.port0, port1 := t.port1 }

/-! ## Captures -/

/-- CAPTURE is refused, its tests in order, with BAD_VALUE for a trigger that names none, a drive that is neither 0 nor 1, or a
window outside its bounds, with OUT_OF_RANGE for an ABSOLUTE start outside O..W, and with NO_STORE without an EMPTY entry and a
free bank; every field of a refusal reads as zero. An accepted SYNC or CONTACT capture arms the lowest EMPTY entry with the
lowest bank that is outside the ring and held by none, a driven SYNC pulling TSYNC for 4 us; an accepted ABSOLUTE one goes to
FILLING with the window named. Nothing else changes (R130, R131, R134, R135, R136, R137). -/
def Obligations.CaptureRequest : Prop :=
  ∀ (s : State) (p : PortId) (trigger : Byte) (first : Word) (second : Half) (drive : Byte), s.receiving p = true →
    let refusedAs (rc : ResultCode) := exec (.capture p trigger first second drive) s
      = .next (s.answered p { result := rc, fields := [.byte 0, .byte 0, .u32 0, .half 0] } .none)
    let named := trigger.toNat ≤ 3 ∧ drive.toNat ≤ 1
    let reach := first.toNat ≤ 511 ∧ second.toNat ≤ 511 ∧ 1 ≤ first.toNat + second.toNat ∧ first.toNat + second.toNat ≤ 512
    let window := 1 ≤ second.toNat ∧ second.toNat ≤ 512
    let inRing := seqDist s.ring.o first ≤ s.capacity ∧ seqDist first s.ring.w ≤ s.capacity
    let usable (b : Fin 8) : Prop :=
      ¬ (s.items.ringBase ≤ b.val ∧ b.val < s.items.ringBase + s.items.ringBanks)
      ∧ ∀ e h, s.entry e = some h → h.bank ≠ b
    let store (e : Fin 4) (b : Fin 8) : Prop :=
      s.entry e = none ∧ (∀ e' < e, s.entry e' ≠ none) ∧ usable b ∧ ∀ b' < b, ¬ usable b'
    (¬ named → refusedAs .badValue)
    ∧ (named → trigger.toNat < 3 → ¬ reach → refusedAs .badValue)
    ∧ (named → trigger.toNat = 3 → ¬ window → refusedAs .badValue)
    ∧ (named → trigger.toNat = 3 → window → ¬ inRing → refusedAs .outOfRange)
    ∧ (named → (if trigger.toNat = 3 then window ∧ inRing else reach) → (¬ ∃ e b, store e b) → refusedAs .noStore)
    ∧ (∀ e b, named → reach → trigger.toNat = 1 ∨ trigger.toNat = 2 → store e b →
        exec (.capture p trigger first second drive) s = .next (({ s with
            entries := s.entries.set e (some
              { stage := .armed, owner := p, trigger := if trigger.toNat = 1 then .sync else .contact
                reach := some (first.toNat, second.toNat), window := none, copied := 0, readPos := 0, bank := b })
            pulse := if trigger.toNat = 1 ∧ drive.toNat = 1 then some 4 else s.pulse } : State).answered p
          { result := .ok, fields := [.byte e.val, .byte 1, .u32 0, .half 0] } .none))
    ∧ (∀ e b, named → window → inRing → trigger.toNat = 3 → store e b →
        exec (.capture p trigger first second drive) s = .next (({ s with
            entries := s.entries.set e (some
              { stage := .filling, owner := p, trigger := .absolute, reach := none
                window := some { start := first, target := second.toNat, truncated := false }
                copied := 0, readPos := 0, bank := b }) } : State).answered p
          { result := .ok, fields := [.byte e.val, .byte 2, .u32 first, .half second.toNat] } .none))

/-- The trigger of a relative entry fixes its window: start W - B, raised to O with the truncated flag where that is older than O,
and a target of the records from there to W and A more; the entry is FILLING from then on, or READY at once with CAPTURE raised
on its owner's port when the target is 0 (R132, R133). An accepted IMMEDIATE capture triggers at its completion. -/
def Obligations.ImmediateCaptureWindow : Prop :=
  ∀ (s : State) (p : PortId) (first : Word) (second : Half) (drive : Byte) (e : Fin 4) (b : Fin 8),
    s.historyLaw → s.receiving p = true → drive.toNat ≤ 1 → s.freeEntry = some e → s.freeBank = some b →
    first.toNat ≤ 511 → second.toNat ≤ 511 → 1 ≤ first.toNat + second.toNat → first.toNat + second.toNat ≤ 512 →
    let short := seqDist s.ring.o s.ring.w < first.toNat
    let found := min first.toNat (seqDist s.ring.o s.ring.w)
    let w : Window :=
      { start := if short then s.ring.o else s.ring.w - BitVec.ofNat 32 first.toNat
        target := found + second.toNat, truncated := decide short }
    let entry (stage : CapStage) : Held :=
      { stage := stage, owner := p, trigger := .immediate, reach := some (first.toNat, second.toNat)
        window := some w, copied := 0, readPos := 0, bank := b }
    let reply (state : Nat) : Reply :=
      { result := .ok, fields := [.byte e.val, .byte state, .u32 w.start, .half w.target] }
    (w.target ≠ 0 →
      exec (.capture p 0 first second drive) s
        = .next ((s.setEntry e (some (entry .filling))).answered p (reply 2) .none))
    ∧ (w.target = 0 →
      exec (.capture p 0 first second drive) s
        = .next (((s.setEntry e (some (entry .ready))).raise p .capture).answered p (reply 3) .none))
    ∧ w.target ≤ 512 ∧ seqDist w.start s.ring.w = found

/-- A falling edge of TSYNC triggers every entry ARMED with SYNC, all with the same W and O, and no other entry (R132, R133, R134);
the expiry of the 4 us of a pulse releases the driver and does nothing else (R135; that it is due when its time is spent is
log 10, and that an expiry with time left does nothing is log 2). -/
def Obligations.TsyncTriggersArmed : Prop :=
  ∀ s : State,
    (∃ t, exec .tsyncFall s = .next t ∧ s.triggered t .sync)
    ∧ (s.pulse = some 0 → exec .tsyncPulseExpiry s = .next { s with pulse := none })
    ∧ (s.pulse ≠ some 0 → exec .tsyncPulseExpiry s = .next s)

/-- A copy moves the next record of a FILLING entry, when the ring holds it, into the next slot of the entry's bank; at the target
length the entry is READY with CAPTURE raised on its owner's port. No other record slot is written. A next record older than O
has been overtaken, and one not yet written is awaited (R138, R139, R140). -/
def Obligations.CaptureCopyFillsBank : Prop :=
  ∀ (s : State) (e : Fin 4) (h : Held) (w : Window), s.entry e = some h → h.stage = .filling → h.window = some w →
    let n := w.start + BitVec.ofNat 32 h.copied
    (∀ r, s.ringRead n = some r →
      ∃ store : Store,
        (h.copied + 1 = w.target →
          exec (.captureCopy e) s = .next ((({ s with store := store } : State).setEntry e (some { h with
            stage := .ready, copied := h.copied + 1, readPos := 0 })).raise h.owner .capture))
        ∧ (h.copied + 1 ≠ w.target →
          exec (.captureCopy e) s
            = .next (({ s with store := store } : State).setEntry e (some { h with copied := h.copied + 1 })))
        ∧ ∀ a, Store.read store a = if a = 512 * h.bank.val + h.copied then some r else Store.read s.store a)
    ∧ (s.ringRead n = none → seqDist n s.ring.o ≤ s.capacity → n ≠ s.ring.o →
        exec (.captureCopy e) s
          = .next ((s.setEntry e (some { h with stage := .failed .overtaken })).raise h.owner .capture))
    ∧ (s.historyLaw → n = s.ring.w → exec (.captureCopy e) s = .next s)

/-- CAPTURE READ is refused, its tests in order, with BAD_VALUE, NOT_OWNER or NOT_READY, its fields zero (log 9). From a READY entry
of the port it fixes its count from the read position, set to 0 first when the from-start flag is set, and its skipped value is
0; each place is the record that stands in the bank at the read position, which increases by 1 when the place has been sent;
once the entry has been released the places are VOID fillers with the sequence they would have sent (R142, R143, R149). Begun or
completed, a place moves the response to that place (log 4). -/
def Obligations.CaptureReadSendsBank : Prop :=
  (∀ (s : State) (p : PortId) (entry n fromStart : Byte), s.receiving p = true →
    let refused (rc : ResultCode) := exec (.captureRead p entry n fromStart) s
      = .next (s.answered p { result := rc, fields := [.u8 0, .u16 0] } .none)
    (4 ≤ entry.toNat ∨ 2 ≤ fromStart.toNat → refused .badValue)
    ∧ ∀ e : Fin 4, entry.toNat = e.val → fromStart.toNat ≤ 1 →
      (s.entry e = none → refused .notOwner)
      ∧ (∀ h, s.entry e = some h → h.owner = p.other → refused .notOwner)
      ∧ (∀ h, s.entry e = some h → h.owner = p → h.stage ≠ .ready → refused .notReady)
      ∧ (∀ h w, s.entry e = some h → h.owner = p → h.stage = .ready → h.window = some w →
          let pos := if fromStart.toNat = 1 then 0 else h.readPos
          let k := min (min n.toNat 64) (w.target - pos)
          exec (.captureRead p entry n fromStart) s
            = .next ((s.setEntry e (some { h with readPos := pos })).answered p
                { result := if 64 < n.toNat then .clamped else .ok, fields := [.byte k, .half 0] }
                (.capture e true (w.start + BitVec.ofNat 32 pos) k 0 none))))
  ∧ (∀ (s : State) (p : PortId) (left : Nat) (resp : Resp) (e : Fin 4) (live : Bool) (first : Seq) (k done : Nat),
      (s.port p).framing = .response left resp →
      (resp.xfer = .capture e live first k done none → done < k → ∀ place : Place,
        (live = true → ∃ h r, s.entry e = some h ∧ Store.read s.store (512 * h.bank.val + h.readPos) = some r
          ∧ place = .stroke r) →
        (live = false → place = .void (first + BitVec.ofNat 32 done)) →
        exec (.captureReadPlaceBegin p) s = .next (s.setPort p { s.port p with
          framing := .response left { resp with
            outBits := 8 * (4 + done * resp.format.length), xfer := .capture e live first k done (some place) } }))
      ∧ (∀ place, resp.xfer = .capture e live first k done (some place) →
        let sent := s.setPort p { s.port p with
          framing := .response 2000 { resp with
            outBits := 8 * (4 + (done + 1) * resp.format.length), xfer := .capture e live first k (done + 1) none } }
        (∀ h, live = true → s.entry e = some h →
          exec (.captureReadRecordComplete p) s = .next (sent.setEntry e (some { h with readPos := h.readPos + 1 })))
        ∧ (live = false → exec (.captureReadRecordComplete p) s = .next sent)))

/-- CAPTURE RELEASE is refused with BAD_VALUE for a number that names no entry and with NOT_OWNER for an EMPTY entry or one of the
other port, its fields zero (R149, log 9). Of an entry the port owns it makes it EMPTY in any of its states, and a CAPTURE READ of
it in progress sends VOID fillers from its next place on; no other entry, no record slot and no condition changes (R143, R144). -/
def Obligations.CaptureReleaseEmptiesEntry : Prop :=
  ∀ (s : State) (p : PortId) (entry : Byte), s.receiving p = true →
    let refused (rc : ResultCode) := exec (.captureRelease p entry) s
      = .next (s.answered p { result := rc, fields := [.u8 0, .u8 0] } .none)
    (4 ≤ entry.toNat → refused .badValue)
    ∧ ∀ e : Fin 4, entry.toNat = e.val →
      (s.entry e = none → refused .notOwner)
      ∧ (∀ h, s.entry e = some h → h.owner = p.other → refused .notOwner)
      ∧ (∀ h, s.entry e = some h → h.owner = p →
        ∃ t : State, exec (.captureRelease p entry) s
            = .next (t.answered p { result := .ok, fields := [.byte e.val, .byte 0] } .none)
          ∧ t = { s with entries := s.entries.set e none, port0 := t.port0, port1 := t.port1 }
          ∧ ∀ q, ((∀ left resp, (s.port q).framing ≠ .response left resp) → t.port q = s.port q)
              ∧ ∀ left resp, (s.port q).framing = .response left resp →
                  t.port q = { s.port q with framing := .response left { resp with
                    xfer := match resp.xfer with
                      | .capture e' live first k done cur =>
                        .capture e' (live && decide (e' ≠ e)) first k done cur
                      | .read k done cur => .read k done cur
                      | .none => .none } })

/-! ## Frames -/

/-- FRAME_START is due in SCANNING when the previous frame has ended and the frame period has passed since its start, by the modulo
distance; before that it does nothing (log 2). The frame takes 28 readings for each TRACKING slot, S0's before S1's, in four
windows of seven coils each held inside the array; the first is due at once, and with no slot TRACKING the guard begins at once
(R49, R50, R51, R54, R62; the eraser channel of a kind without eraser is log 13). -/
def Obligations.FrameStart : Prop :=
  ∀ (s : State) (r : Run), s.engine = .scanning r → r.frame = none →
    let first (n c : Nat) : Nat := min (c - 3) (n - 7)
    let window (i : SlotId) (w : WindowId) (ch : Chan) (a : Axis) (n c : Nat) : List TrackRead :=
      (List.range 7).map fun j => { slot := i, window := w, chan := ch, axis := a, coil := first n c + j }
    let readings (i : SlotId) (x : Slot) : List TrackRead :=
      match x with
      | .free => []
      | .tracking t =>
        let k := s.items.kinds[t.kind]
        let own : Chan := match t.toolEnd with | .tip => k.tip | .eraser => k.eraser.getD k.tip
        window i .endX own .x s.items.xCoils t.endX ++ window i .endY own .y s.items.yCoils t.endY
          ++ window i .colX k.collar .x s.items.xCoils t.colX ++ window i .colY k.collar .y s.items.yCoils t.colY
    let plan := readings .s0 s.slot0 ++ readings .s1 s.slot1
    let gating : Gating := if s.items.quietGating then .active else .suspended
    let path : Path :=
      if s.items.quietGating = true ∧ s.quiet = false then .waiting s.counter else .reading s.items.dwell
    (seqDist r.start s.counter < s.items.framePeriod → exec .frameStart s = .next s)
    ∧ (s.items.framePeriod ≤ seqDist r.start s.counter → ∃ stage,
        exec .frameStart s = .next { s with
          engine := .scanning
            { start := s.counter
              frame := some
                { t := s.slot0.isTracking.toNat + s.slot1.isTracking.toNat, gating := gating, stage := stage }
              sweep := r.sweep } }
        ∧ (plan = [] → stage = .guarding 100)
        ∧ (∀ cur rest, plan = cur :: rest → stage = .tracking cur rest [] path))
    ∧ plan.length = 28 * (s.slot0.isTracking.toNat + s.slot1.isTracking.toNat)
    ∧ (8 ≤ s.items.xCoils → 8 ≤ s.items.yCoils → ∀ x ∈ plan, x.coil < s.items.coils x.axis)

/-- A reading in progress whose dwell is over (log 10) ends with its amplitude and phase, phase 0 for amplitude 0. A tracking
reading is kept and the next one of the plan is due, or after the last one the solve stage does S0's work, then S1's, and the
guard of 100 us begins. A search reading is kept by the sweep and the cursor advances: X coils, then Y coils, then the next
channel; the frame's search goes on until its budget is spent or the sweep completes, and then the frame has ended. A complete
sweep is evaluated and ends. A reading that is due waits for QUIET where gating is ACTIVE and QUIET low (R3, R50 to R54).
A FLUSH or another event of the ring or a cursor that falls together with S1's append may be taken before it (R109, R128;
log 16). -/
def Obligations.ReadingEndTakesReading : Prop :=
  ∀ (s : State) (r : Run) (f : Frame) (amplitude : BitVec 16) (phase : BitVec 12),
    s.engine = .scanning r → r.frame = some f →
    let reading : Reading := { amp := amplitude.toNat, phase := if amplitude = 0 then 0 else phase.toNat }
    let path : Path := if f.gating = .active ∧ s.quiet = false then .waiting s.counter else .reading s.items.dwell
    let withRun (t : State) (frame : Option Frame) (sweep : Option Sweep) : State :=
      { t with engine := .scanning { start := r.start, frame := frame, sweep := sweep } }
    (∀ cur rest got, f.stage = .tracking cur rest got (.reading 0) →
      (∀ next later, rest = next :: later →
        exec (.readingEnd amplitude phase) s
          = .next (withRun s (some { f with stage := .tracking next later (got ++ [(cur, reading)]) path }) r.sweep))
      ∧ (rest = [] → ∃ u, (s.solveSlot (got ++ [(cur, reading)]) r.start .s0).together u []
          ∧ exec (.readingEnd amplitude phase) s
              = .next (withRun (u.solveSlot (got ++ [(cur, reading)]) r.start .s1)
                  (some { f with stage := .guarding 100 }) r.sweep)))
    ∧ (∀ budget sw c, f.stage = .searching budget (.reading 0) → r.sweep = some sw → sw.list[sw.cursor.index]? = some c →
        let n := match sw.cursor.axis with | .x => s.items.xCoils | .y => s.items.yCoils
        let got := sw.got ++ [{ chan := c, axis := sw.cursor.axis, coil := sw.cursor.coil, reading := reading }]
        let next : Option SearchCursor :=
          if sw.cursor.coil + 1 < n then some { sw.cursor with coil := sw.cursor.coil + 1 }
          else if sw.cursor.axis = .x then some { index := sw.cursor.index, axis := .y, coil := 0 }
          else if sw.cursor.index + 1 < sw.list.length then some { index := sw.cursor.index + 1, axis := .x, coil := 0 }
          else none
        (∀ at_, next = some at_ →
          (1 < budget → exec (.readingEnd amplitude phase) s
            = .next (withRun s (some { f with stage := .searching (budget - 1) path })
                (some { list := sw.list, cursor := at_, got := got })))
          ∧ (budget ≤ 1 → exec (.readingEnd amplitude phase) s
            = .next (withRun s none (some { list := sw.list, cursor := at_, got := got }))))
        ∧ (next = none → exec (.readingEnd amplitude phase) s
            = .next (withRun (s.evaluateSweep { sw with got := got }) none none)))

/-- When the guard is over (log 10) and no slot is FREE the sweep in progress is abandoned and the frame ends. With a slot FREE the
sweep goes on, or one begins over the tip and eraser channels of enabled kinds not tracked, in ascending order, at the first X
coil of the first channel; an empty list begins none and ends the frame. The frame may then take
(frame period - 100 - 28 dwell t) / dwell search readings, the first due at once (R19, R52, R53). -/
def Obligations.GuardExpirySearches : Prop :=
  ∀ (s : State) (r : Run) (f : Frame), s.engine = .scanning r → r.frame = some f → f.stage = .guarding 0 →
    let ended (sweep : Option Sweep) : State :=
      { s with engine := .scanning { start := r.start, frame := none, sweep := sweep } }
    let budget := (s.items.framePeriod - 100 - 28 * s.items.dwell * f.t) / s.items.dwell
    let path : Path := if f.gating = .active ∧ s.quiet = false then .waiting s.counter else .reading s.items.dwell
    let searches (sw : Sweep) : State :=
      if budget = 0 then ended (some sw)
      else { s with
        engine := .scanning
          { start := r.start, frame := some { f with stage := .searching budget path }, sweep := some sw } }
    let full := s.slot0 ≠ .free ∧ s.slot1 ≠ .free
    let tracked (k : Fin 4) : Prop :=
      (∃ t, s.slot0 = .tracking t ∧ t.kind = k) ∨ (∃ t, s.slot1 = .tracking t ∧ t.kind = k)
    (full → exec .guardExpiry s = .next (ended none))
    ∧ (¬ full → ∀ sw, r.sweep = some sw → exec .guardExpiry s = .next (searches sw))
    ∧ (¬ full → r.sweep = none → ∃ list : List Chan,
        (∀ c, c ∈ list ↔ ∃ k : Fin 4, (s.items.kinds[k]).enabled = true ∧ ¬ tracked k
          ∧ ((s.items.kinds[k]).tip = c ∨ (s.items.kinds[k]).eraser = some c))
        ∧ list.Pairwise (· < ·)
        ∧ (list = [] → exec .guardExpiry s = .next (ended none))
        ∧ (list ≠ [] → exec .guardExpiry s
            = .next (searches { list := list, cursor := { index := 0, axis := .x, coil := 0 }, got := [] })))

/-- QUIET gating: a waiting reading begins at a rise of QUIET, with gating as it was, or at the expiry of its quiet timer, judged by
the modulo distance from its start, with gating SUSPENDED for the frame and QUIET raised on both ports. A fall of QUIET changes
the pin alone, and so does a rise when no reading waits (R54). Before its time is spent an expiry does nothing (log 2). -/
def Obligations.QuietEndsWait : Prop :=
  ∀ s : State,
    exec .quietFall s = .next { s with quiet := false }
    ∧ ((∀ r f, s.engine = .scanning r → r.frame = some f →
          ∀ since, (∀ cur rest got, f.stage ≠ .tracking cur rest got (.waiting since))
            ∧ ∀ budget, f.stage ≠ .searching budget (.waiting since)) →
        exec .quietRise s = .next { s with quiet := true })
    ∧ ∀ (r : Run) (f : Frame) (since : Time) (stage : Path → Stage),
        s.engine = .scanning r → r.frame = some f → f.stage = stage (.waiting since) →
        ((∃ cur rest got, stage = .tracking cur rest got) ∨ ∃ budget, stage = .searching budget) →
        let begun (g : Gating) : Engine :=
          .scanning { r with frame := some { f with gating := g, stage := stage (.reading s.items.dwell) } }
        exec .quietRise s = .next { s with quiet := true, engine := begun f.gating }
        ∧ (s.items.quietTimeout ≤ seqDist since s.counter →
            exec .quietTimerExpiry s = .next { (s.raiseBoth .quiet) with engine := begun .suspended })
        ∧ (seqDist since s.counter < s.items.quietTimeout → exec .quietTimerExpiry s = .next s)

/-! ## Tool slots -/

/-- The sample of a slot is what the solver makes of the slot's kind entry, the knots of the curve that the entry names, and the
slot's four windows of readings (R32, R50, R62, R75, R77). A frame strength at or above the leave level is good: the miss count returns to 0, the sample is kept, contact is judged with
hysteresis, the buttons are decoded from a present collar, an ENTER (with PROX on both ports) or a SAMPLE is appended, the
contact event when contact turned on triggers every ARMED CONTACT capture with the W after that record, and the windows are
recentred (R63, R64, R66 to R70, R132, R133, R136). -/
def Obligations.GoodFrame : Prop :=
  ∀ (s : State) (got : List (TrackRead × Reading)) (time : Time) (i : SlotId) (t : Track) (sm : Sample),
    s.slot i = .tracking t → s.sampleOf got i t = sm → s.items.leaveLevel ≤ sm.vals.tipAmp →
    let v := sm.vals
    let absent := v.flags.tiltAbsent
    let contact : Bool :=
      if t.contact then decide (s.items.contactOff < v.pressure) else decide (s.items.contactOn ≤ v.pressure)
    let buttons : Buttons :=
      if absent then t.buttons
      else if sm.colPhase ≤ 1023 then .none
      else if sm.colPhase ≤ 2047 then .lower
      else if sm.colPhase ≤ 3071 then .upper
      else .both
    let fields : StrokeFields :=
      { slot := i, kind := t.kind, toolEnd := t.toolEnd, x := v.x, y := v.y, pressure := v.pressure
        tiltX := v.tiltX, tiltY := v.tiltY, contact := contact, buttons := buttons, flags := v.flags
        tipAmp := v.tipAmp, colAmp := v.colAmp, colDx := v.colDx, colDy := v.colDy, travel := v.travel }
    let written :=
      if t.first then (s.append time (.stroke .enter fields)).raiseBoth .prox else s.append time (.stroke .sample fields)
    ∃ called : State,
      (t.contact = false ∧ contact = true → written.triggered called .contact)
      ∧ (¬ (t.contact = false ∧ contact = true) → called = written)
      ∧ s.solveSlot got time i
        = called.setSlot i (.tracking
            { kind := t.kind, toolEnd := t.toolEnd
              endX := sm.endXPeak, endY := sm.endYPeak
              colX := if absent then sm.endXPeak else sm.colXPeak
              colY := if absent then sm.endYPeak else sm.colYPeak
              miss := 0, contact := contact, buttons := buttons, first := false, lastGood := some v })

/-- A frame strength below the leave level, of the sample that the solver makes of the slot's kind, curve and windows (R32, R50,
R62, R75, R77), is faint: the miss count rises by 1 and contact, buttons and the last good sample stay.
Below the leave count the windows are recentred, and a slot past its ENTER appends its last good sample with HELD; at the leave
count the slot becomes FREE, one past its ENTER appending its LEAVE with PROX on both ports. A slot that frames stop on closes in
the same way, with the schedule's start time (R63, R65, R66, R68, R70, R71). -/
def Obligations.FaintFrameAndClosing : Prop :=
  ∀ (s : State) (i : SlotId) (t : Track) (time : Time), s.slot i = .tracking t →
    let fields (v : SampleVals) : StrokeFields :=
      { slot := i, kind := t.kind, toolEnd := t.toolEnd, x := v.x, y := v.y, pressure := v.pressure
        tiltX := v.tiltX, tiltY := v.tiltY, contact := t.contact, buttons := t.buttons, flags := v.flags
        tipAmp := v.tipAmp, colAmp := v.colAmp, colDx := v.colDx, colDy := v.colDy, travel := v.travel }
    let left (v : SampleVals) : State :=
      ((s.append time (.stroke .leave { fields v with
        pressure := 0, contact := false, flags := {}, tipAmp := 0, colAmp := 0, travel := 0 })).raiseBoth .prox).setSlot i .free
    (t.first = true → s.closeSlot i time = s.setSlot i .free)
    ∧ (∀ v, t.first = false → t.lastGood = some v → s.closeSlot i time = left v)
    ∧ ∀ (got : List (TrackRead × Reading)) (sm : Sample),
        s.sampleOf got i t = sm → sm.vals.tipAmp < s.items.leaveLevel →
        let absent := sm.vals.flags.tiltAbsent
        let after : Track :=
          { t with
            miss := t.miss + 1, endX := sm.endXPeak, endY := sm.endYPeak
            colX := if absent then sm.endXPeak else sm.colXPeak
            colY := if absent then sm.endYPeak else sm.colYPeak }
        (t.miss + 1 = s.items.leaveCount → t.first = true → s.solveSlot got time i = s.setSlot i .free)
        ∧ (∀ v, t.miss + 1 = s.items.leaveCount → t.first = false → t.lastGood = some v → s.solveSlot got time i = left v)
        ∧ (t.miss + 1 < s.items.leaveCount → t.first = true → s.solveSlot got time i = s.setSlot i (.tracking after))
        ∧ (∀ v, t.miss + 1 < s.items.leaveCount → t.first = false → t.lastGood = some v →
            s.solveSlot got time i
              = (s.append time (.stroke .sample { fields v with flags := { v.flags with held := true } })).setSlot i
                  (.tracking after))

/-- The evaluation of a sweep: each channel heard at the enter level or above on both axes, its listed coils substituted and its
peaks the lowest of the greatest, is a candidate with the smaller of its two peaks and the kind and end it belongs to. One end of
each kind not tracked is kept, the stronger, the tip on a tie; the greatest strength comes first, equal ones in ascending kind.
Each takes the lowest slot that is FREE, starting with the first-frame flag set and all four windows on its peaks; nothing else
changes (R19, R59, R60, R61). -/
def Obligations.SweepAllocates : Prop :=
  ∀ (s : State) (sw : Sweep), sw.list.Nodup →
    let readings (ch : Chan) (a : Axis) (d : AxisDefects) : List Reading :=
      substitute 0 (d.listed.map Defect.coil)
        ((sw.got.filter fun r => decide (r.chan = ch ∧ r.axis = a)).map SweepReading.reading)
    let belongs (ch : Chan) (k : Fin 4) (e : ToolEnd) : Prop :=
      (s.items.kinds[k]).enabled = true
        ∧ (match e with
          | .tip => (s.items.kinds[k]).tip = ch
          | .eraser => (s.items.kinds[k]).eraser = some ch ∧ (s.items.kinds[k]).tip ≠ ch)
    let found (c : Candidate) : Prop := ∃ ch ∈ sw.list, ∃ ax ay,
      isPeak (readings ch .x s.map.x) c.xPeak ax ∧ isPeak (readings ch .y s.map.y) c.yPeak ay
        ∧ c.strength = min ax ay ∧ s.items.enterLevel ≤ c.strength
        ∧ belongs ch c.kind c.toolEnd ∧ ∀ k < c.kind, ∀ e, ¬ belongs ch k e
    let tracked (k : Fin 4) : Prop :=
      (∃ t, s.slot0 = .tracking t ∧ t.kind = k) ∨ (∃ t, s.slot1 = .tracking t ∧ t.kind = k)
    let put (c : Option Candidate) : Slot :=
      match c with
      | none => .free
      | some c => .tracking
          { kind := c.kind, toolEnd := c.toolEnd, endX := c.xPeak, endY := c.yPeak, colX := c.xPeak, colY := c.yPeak
            miss := 0, contact := false, buttons := .none, first := true, lastGood := none }
    ∃ cs : List Candidate,
      (∀ c ∈ cs, found c ∧ ¬ tracked c.kind)
      ∧ cs.Pairwise (fun c d => d.strength < c.strength ∨ (d.strength = c.strength ∧ c.kind < d.kind))
      ∧ (cs.map Candidate.kind).Nodup
      ∧ (∀ c, found c → ¬ tracked c.kind → ∃ d ∈ cs, d.kind = c.kind
          ∧ (c.strength < d.strength ∨ c.strength = d.strength ∧ (d.toolEnd = c.toolEnd ∨ d.toolEnd = .tip)))
      ∧ (s.slot0 = .free → s.slot1 = .free →
          s.evaluateSweep sw = { s with slot0 := put cs[0]?, slot1 := put cs[1]? })
      ∧ (s.slot0 = .free → s.slot1 ≠ .free → s.evaluateSweep sw = { s with slot0 := put cs[0]? })
      ∧ (s.slot0 ≠ .free → s.slot1 = .free → s.evaluateSweep sw = { s with slot1 := put cs[0]? })
      ∧ (s.slot0 ≠ .free → s.slot1 ≠ .free → s.evaluateSweep sw = s)

/-! ## The solver -/

/-- Substitution replaces each listed coil of a set from the readings as read: with two neighbours by the floor of their mean and
the phase of the louder, the lower coil's on a tie; with one by that one. Other coils keep their readings, and a substituted
amplitude never exceeds the larger neighbour's (R15, R16). -/
def Obligations.SubstitutionFromNeighbours : Prop :=
  ∀ (first : Nat) (listed : List Nat) (rs : List Reading) (j : Nat) (own : Reading), rs[j]? = some own →
    let out (k : Nat) := (substitute first listed rs)[k]?
    (substitute first listed rs).length = rs.length
    ∧ (first + j ∉ listed → out j = some own)
    ∧ (first + j ∈ listed →
        (∀ a b, 0 < j → rs[j - 1]? = some a → rs[j + 1]? = some b →
          out j = some { amp := (a.amp + b.amp) / 2, phase := if a.amp < b.amp then b.phase else a.phase }
          ∧ (a.amp + b.amp) / 2 ≤ max a.amp b.amp)
        ∧ (∀ a, 0 < j → rs[j - 1]? = some a → rs[j + 1]? = none → out j = some a)
        ∧ (∀ b, j = 0 → rs[1]? = some b → out j = some b))

/-- A quotient rounded half away from zero has the magnitude floor((2|n| + |d|) / (2|d|)) and the sign of n d; it is the nearest
whole number, the one farther from 0 when two are equally near (R83). -/
def Obligations.RoundsHalfAwayFromZero : Prop :=
  ∀ n d : Int, d ≠ 0 →
    let q := roundHalfAway n d
    q.natAbs = (2 * n.natAbs + d.natAbs) / (2 * d.natAbs)
    ∧ (q ≠ 0 → q.sign = (n * d).sign)
    ∧ 2 * (q * d - n).natAbs ≤ d.natAbs
    ∧ (2 * (q * d - n).natAbs = d.natAbs → n.natAbs < (q * d).natAbs)

/-- The peak of a window is the lowest of its coils that have the greatest amplitude after substitution, with that coil's phase; a
neighbour missing from the window is mirrored through it, and a substituted peak or neighbour counts for DEFECT (R77 to R81). The
coordinate is the peak coil's centre and the vertex offset, within the centres of the first and the last coil (R84). The offset
lies within half a pitch, towards the larger neighbour; it is 0 when both neighbours are equal, and half a pitch when the upper
one equals the peak and the lower does not (R80, R82). -/
def Obligations.InterpolationStaysNearPeak : Prop :=
  (∀ pitch a b c : Nat, pitch % 2 = 0 → a ≤ b → c ≤ b →
    let o := vertexOffset pitch a b c
    2 * o.natAbs ≤ pitch
    ∧ (a < c → 0 ≤ o) ∧ (c < a → o ≤ 0) ∧ (a = c → o = 0)
    ∧ (a < b → c = b → o = (pitch / 2 : Nat))
    ∧ (a < b → o = roundHalfAway (((a : Int) - c) * pitch) (2 * ((a : Int) - 2 * b + c))))
  ∧ ∀ (pitch : Nat) (w : WindowIn), pitch % 2 = 0 → w.readings.length = 7 → w.first + 7 ≤ w.coils →
      let o := solveWindow pitch w
      let rs := substitute w.first w.listed w.readings
      let j := o.peakCoil - w.first
      let amp (i : Nat) : Nat := match rs[i]? with | some r => r.amp | none => 0
      let before := if j = 0 then amp 1 else amp (j - 1)
      let after := if j = 6 then amp 5 else amp (j + 1)
      w.first ≤ o.peakCoil ∧ o.peakCoil ≤ w.first + 6
      ∧ isPeak rs j o.amp ∧ rs[j]?.map Reading.phase = some o.phase
      ∧ o.coord = (o.peakCoil * pitch + pitch / 2 : Nat) + vertexOffset pitch before o.amp after
      ∧ (o.mirrored = true ↔ j = 0 ∨ j = 6)
      ∧ (o.defectNear = true ↔ o.peakCoil ∈ w.listed ∨ (j ≠ 0 ∧ o.peakCoil - 1 ∈ w.listed)
          ∨ (j ≠ 6 ∧ o.peakCoil + 1 ∈ w.listed))
      ∧ ((pitch / 2 : Nat) : Int) ≤ o.coord ∧ o.coord ≤ ((w.coils * pitch - pitch / 2 : Nat) : Int)

/-- The raw travel is the phase from the phase zero, in 4096ths of the span with the fraction dropped, held in 0..4095, and
CLAMPED_PRESSURE says that it had to be held: below the zero 0, and from zero plus span on 4095 (R86, R87). On a valid curve every
travel has its segment, the lower one at an interior knot, and the pressure of the sample is interpolated along it, rounded half
up: between its outputs, and exactly an output at a knot (R88, R89). -/
def Obligations.PressureFromPhase : Prop :=
  ∀ (items : Items) (knots : List Knot) (k : Kind) (wex wey wcx wcy : WindowIn), 256 ≤ k.phaseSpan → k.phaseSpan ≤ 4095 →
    let v := (solve items knots k wex wey wcx wcy).vals
    let p := (solveWindow items.pitch wex).phase
    (p < k.phaseZero → v.travel = 0 ∧ v.flags.clampedPressure = true)
    ∧ (k.phaseZero ≤ p → p < k.phaseZero + k.phaseSpan →
        v.travel = (p - k.phaseZero) * 4096 / k.phaseSpan ∧ v.travel ≤ 4095 ∧ v.flags.clampedPressure = false)
    ∧ (k.phaseZero + k.phaseSpan ≤ p → v.travel = 4095 ∧ v.flags.clampedPressure = true)
    ∧ (knots.head?.map Knot.input = some 0 → knots.getLast?.map Knot.input = some 4095 →
        (knots.map Knot.input).Pairwise (· < ·) → (knots.map Knot.output).Pairwise (· ≤ ·) →
        ∃ (j : Nat) (a b : Knot), knots[j]? = some a ∧ knots[j + 1]? = some b
          ∧ a.input ≤ v.travel ∧ v.travel ≤ b.input ∧ (j ≠ 0 → a.input < v.travel)
          ∧ v.pressure
              = a.output + ((v.travel - a.input) * (b.output - a.output) + (b.input - a.input) / 2) / (b.input - a.input)
          ∧ a.output ≤ v.pressure ∧ v.pressure ≤ b.output
          ∧ (v.travel = a.input → v.pressure = a.output) ∧ (v.travel = b.input → v.pressure = b.output))

/-- An absent collar gives no tilt and no offsets. A present one gives each component as its offset in thousandths of the collar
spacing, or of the measured distance where that is greater, with TILT_SAT; the components lie in -1000..1000 without the clamp,
and the tip correction is at most 1500 on an axis (R90 to R95). The measured distance is at least the spacing; that it is greater,
as R93 remarks, fails where it rounds down to the spacing (NOTES.md). -/
def Obligations.TiltWithinReach : Prop :=
  ∀ (k : Kind) (strength : Nat) (dx dy : Int), 500 ≤ k.spacing → k.spacing ≤ 3000 → k.tipCorr ≤ 128 →
    let t := tilt k strength dx dy
    let square := dx * dx + dy * dy
    (strength < k.collarMin → t = { x := 0, y := 0, dx := 0, dy := 0, saturated := false, absent := true })
    ∧ (k.collarMin ≤ strength →
        t.absent = false
        ∧ t.dx = max (-32767) (min dx 32767) ∧ t.dy = max (-32767) (min dy 32767)
        ∧ (t.saturated = true ↔ (k.spacing : Int) * k.spacing < square)
        ∧ ∃ h : Nat,
            (square ≤ (k.spacing : Int) * k.spacing → h = k.spacing)
            ∧ ((k.spacing : Int) * k.spacing < square →
                k.spacing ≤ h ∧ (h : Int) * h ≤ square ∧ square < ((h : Int) + 1) * (h + 1))
            ∧ t.x = roundHalfAway (dx * 1000) h ∧ t.y = roundHalfAway (dy * 1000) h)
    ∧ -1000 ≤ t.x ∧ t.x ≤ 1000 ∧ -1000 ≤ t.y ∧ t.y ≤ 1000
    ∧ (tipCorrection t.x k).natAbs ≤ 1500 ∧ (tipCorrection t.y k).natAbs ≤ 1500

/-- A tool sample is made from its four windows: the position is the tip coordinate less the tip correction, clamped to the array
with CLAMPED_POS; the amplitudes are the smaller peaks of their axes; the tilt is that of the collar offsets; EDGE and FAST tell
why a neighbour of an end peak was mirrored, and DEFECT counts the used windows (R78, R79, R81, R90, R95, R96, R97). For windows
inside the array, readings in their ranges and a valid curve, every value lies in the ranges of R76, TILT_ABSENT and TILT_SAT never
together and HELD never set (R76, R94, R96, R97). -/
def Obligations.SampleInRange : Prop :=
  ∀ (items : Items) (knots : List Knot) (k : Kind) (wex wey wcx wcy : WindowIn),
    let sm := solve items knots k wex wey wcx wcy
    let v := sm.vals
    let ex := solveWindow items.pitch wex
    let ey := solveWindow items.pitch wey
    let cx := solveWindow items.pitch wcx
    let cy := solveWindow items.pitch wcy
    let lean := tilt k (min cx.amp cy.amp) (cx.coord - ex.coord) (cy.coord - ey.coord)
    let corrected (o : WindowOut) (t : Int) : Int :=
      if lean.absent then o.coord else o.coord - roundHalfAway (t * k.spacing * k.tipCorr) 256000
    let clamped (coils : Nat) (c : Int) : Int := max 0 (min c ((coils * items.pitch : Nat) - 1))
    let x := clamped items.xCoils (corrected ex lean.x)
    let y := clamped items.yCoils (corrected ey lean.y)
    let onEdge (o : WindowOut) (coils : Nat) : Prop := o.peakCoil = 0 ∨ o.peakCoil + 1 = coils
    ((v.x : Int) = x ∧ (v.y : Int) = y
      ∧ (v.flags.clampedPos = true ↔ x ≠ corrected ex lean.x ∨ y ≠ corrected ey lean.y)
      ∧ v.tipAmp = min ex.amp ey.amp ∧ v.colAmp = min cx.amp cy.amp
      ∧ v.tiltX = lean.x ∧ v.tiltY = lean.y ∧ v.colDx = lean.dx ∧ v.colDy = lean.dy
      ∧ v.flags.tiltSat = lean.saturated ∧ v.flags.tiltAbsent = lean.absent
      ∧ (v.flags.edge = true ↔ (ex.mirrored = true ∧ onEdge ex items.xCoils) ∨ (ey.mirrored = true ∧ onEdge ey items.yCoils))
      ∧ (v.flags.fast = true ↔ (ex.mirrored = true ∧ ¬ onEdge ex items.xCoils) ∨ (ey.mirrored = true ∧ ¬ onEdge ey items.yCoils))
      ∧ (v.flags.defect = true ↔ ex.defectNear = true ∨ ey.defectNear = true
          ∨ (lean.absent = false ∧ (cx.defectNear = true ∨ cy.defectNear = true)))
      ∧ sm.endXPeak = ex.peakCoil ∧ sm.endYPeak = ey.peakCoil ∧ sm.colXPeak = cx.peakCoil ∧ sm.colYPeak = cy.peakCoil
      ∧ sm.colPhase = cx.phase)
    ∧ (items.pitch % 2 = 0 → 2 ≤ items.pitch → items.xCoils = wex.coils → items.yCoils = wey.coils →
      items.xCoils = wcx.coils → items.yCoils = wcy.coils →
      (∀ w ∈ [wex, wey, wcx, wcy], w.readings.length = 7 ∧ w.first + 7 ≤ w.coils
        ∧ ∀ r ∈ w.readings, r.amp ≤ 65535 ∧ r.phase ≤ 4095) →
      knots.head?.map Knot.input = some 0 → knots.getLast?.map Knot.input = some 4095 →
      (knots.map Knot.input).Pairwise (· < ·) → (knots.map Knot.output).Pairwise (· ≤ ·) →
      (∀ x ∈ knots, x.output ≤ 8191) →
      v.x < items.xCoils * items.pitch ∧ v.y < items.yCoils * items.pitch
      ∧ v.pressure ≤ 8191 ∧ v.travel ≤ 4095
      ∧ -1000 ≤ v.tiltX ∧ v.tiltX ≤ 1000 ∧ -1000 ≤ v.tiltY ∧ v.tiltY ≤ 1000
      ∧ v.tipAmp ≤ 65535 ∧ v.colAmp ≤ 65535
      ∧ -32767 ≤ v.colDx ∧ v.colDx ≤ 32767 ∧ -32767 ≤ v.colDy ∧ v.colDy ≤ 32767
      ∧ sm.endXPeak < items.xCoils ∧ sm.endYPeak < items.yCoils ∧ sm.colXPeak < items.xCoils ∧ sm.colYPeak < items.yCoils
      ∧ sm.colPhase ≤ 4095
      ∧ ¬ (v.flags.tiltAbsent = true ∧ v.flags.tiltSat = true) ∧ v.flags.held = false)

/-! ## Records at the port -/

/-- A record place is 24, 28 or 36 bytes in BASIC, TIMED and FULL, and a shorter format is the beginning of a longer one. In the
port's byte order its fields stand at the offsets of table 9.8.2, with the codes and bits given there; an absent field of a BREAK
reads as zero, and so does every byte of a VOID filler after its sequence (R102, R118, R153, R159). -/
def Obligations.RecordPlaceBytes : Prop :=
  ∀ (order : ByteOrder) (pl : Place),
    let bytes := pl.bytes .full order
    let number (offset size : Nat) : Nat :=
      let field := (bytes.drop offset).take size
      (if order = .little then field.reverse else field).foldl (fun acc b => acc * 256 + b.toNat) 0
    let signed (offset : Nat) : Int := (BitVec.ofNat 16 (number offset 2)).toInt
    (∀ format, (pl.bytes format order).length = (match format with | .basic => 24 | .timed => 28 | .full => 36))
    ∧ (pl.bytes .basic order).IsPrefix (pl.bytes .timed order) ∧ (pl.bytes .timed order).IsPrefix bytes
    ∧ (∀ n, pl = .void n → number 0 4 = n.toNat ∧ ∀ b ∈ bytes.drop 4, b = 0)
    ∧ (∀ r, pl = .stroke r → number 0 4 = r.seq.toNat ∧ number 24 4 = r.time.toNat)
    ∧ (∀ r kind f, pl = .stroke r → r.body = .stroke kind f →
        number 4 1 = (match kind with | .enter => 1 | .sample => 2 | .leave => 3)
        ∧ number 5 1 = (match f.slot with | .s0 => 0 | .s1 => 1) + 2 * f.kind.val
            + 8 * (match f.toolEnd with | .tip => 0 | .eraser => 1) + 64 * r.tile.toNat
        ∧ number 6 1 = f.contact.toNat + 2 * (match f.buttons with | .none => 0 | .lower => 1 | .upper => 2 | .both => 3)
        ∧ number 7 1 = f.flags.edge.toNat + 2 * f.flags.fast.toNat + 4 * f.flags.defect.toNat + 8 * f.flags.held.toNat
            + 16 * f.flags.tiltSat.toNat + 32 * f.flags.tiltAbsent.toNat + 64 * f.flags.clampedPos.toNat
            + 128 * f.flags.clampedPressure.toNat
        ∧ (f.x < 2 ^ 32 → number 8 4 = f.x) ∧ (f.y < 2 ^ 32 → number 12 4 = f.y)
        ∧ (f.pressure < 65536 → number 16 2 = f.pressure) ∧ (f.tipAmp < 65536 → number 22 2 = f.tipAmp)
        ∧ (f.colAmp < 65536 → number 28 2 = f.colAmp) ∧ (f.travel < 65536 → number 34 2 = f.travel)
        ∧ (-32768 ≤ f.tiltX → f.tiltX ≤ 32767 → signed 18 = f.tiltX)
        ∧ (-32768 ≤ f.tiltY → f.tiltY ≤ 32767 → signed 20 = f.tiltY)
        ∧ (-32768 ≤ f.colDx → f.colDx ≤ 32767 → signed 30 = f.colDx)
        ∧ (-32768 ≤ f.colDy → f.colDy ≤ 32767 → signed 32 = f.colDy))
    ∧ (∀ r cause, pl = .stroke r → r.body = .brk cause →
        number 4 1 = 4 ∧ number 5 1 = 64 * r.tile.toNat
        ∧ number 6 1 = 16 * (match cause with | .stopped => 1 | .halted => 2)
        ∧ (∀ b ∈ (bytes.drop 7).take 17, b = 0) ∧ ∀ b ∈ bytes.drop 28, b = 0)

/-! ## Time and full reset -/

/-- A tick increases the timestamp counter by 1, wrapping, and takes a microsecond from every running timer (log 10), and nothing
else; no other command but full reset changes the counter, none but full reset the tile number, and W rises by at most 3 at
any command (R51, R72, R103, R105, R165). -/
def Obligations.TimeAndHistoryAdvance : Prop :=
  (∀ s : State, ∃ t, exec .timestampCounterTick s = .next t
    ∧ t.counter = s.counter + 1 ∧ t.pulse = s.pulse.map (· - 1)
    ∧ (∀ pass, s.engine = .checking pass → t.engine = .checking { pass with left := pass.left - 1 })
    ∧ (s.engine.isScanning = false → (∀ pass, s.engine ≠ .checking pass) → t.engine = s.engine)
    ∧ (∀ r, s.engine = .scanning r → r.frame = none → t.engine = s.engine)
    ∧ (∀ r f, s.engine = .scanning r → r.frame = some f →
        t.engine = .scanning { r with frame := some { f with
          stage :=
            match f.stage with
            | .tracking cur rest got (.reading left) => .tracking cur rest got (.reading (left - 1))
            | .tracking cur rest got (.waiting since) => .tracking cur rest got (.waiting since)
            | .guarding left => .guarding (left - 1)
            | .searching budget (.reading left) => .searching budget (.reading (left - 1))
            | .searching budget (.waiting since) => .searching budget (.waiting since) } })
    ∧ (∀ p, t.port p = { s.port p with
        lapseTimer := (s.port p).lapseTimer.map (· - 1)
        framing :=
          match (s.port p).framing with
          | .request left rx => .request (left - 1) rx
          | .response left resp => .response (left - 1) resp
          | .idle => .idle
          | .discarding => .discarding })
    ∧ t = { s with counter := t.counter, pulse := t.pulse, engine := t.engine, port0 := t.port0, port1 := t.port1 })
  ∧ ∀ (i : Instr) (s t : State), exec i s = .next t → (∀ a b c d e, i ≠ .fullReset a b c d e) →
      t.tile = s.tile ∧ (i ≠ .timestampCounterTick → t.counter = s.counter)
      ∧ ∃ n ≤ 3, t.ring.w = s.ring.w + BitVec.ofNat 32 n

/-- Full reset returns every block to its values: HALTED with empty sets, the items of table 9.8.3, C0 linear and the other curves
EMPTY, the map INVALID and empty, no report, both slots FREE, W, O and the counter 0, every entry EMPTY, both ports at their
values with nothing pending and no line asserted. The straps give the tile number; a port whose CS is low discards until it
rises (R1, R6, R8, R17, R22, R33, R44, R57, R58, R99, R101, R103, R112, R129, R147, R152, R160, R161). That no record slot reads
as written, that the command carries the pin levels, that the count of free choices stays and that MISO has no value while CS is
high is the model's (log 5, 7, 11, 16). -/
def Obligations.FullResetState : Prop :=
  ∀ (tile1 tile0 cs0 cs1 quiet : Bool) (s : State),
    let k0 : Kind :=
      { enabled := true, tip := 0, eraser := some 1, collar := 2, spacing := 1500, curve := 0, phaseZero := 400
        phaseSpan := 2400, tipCorr := 64, collarMin := 300 }
    let other : Kind := { k0 with enabled := false, eraser := none }
    let cursor : Cursor := { next := 0, mode := .sequential, mark := none, ready := 1, margin := 256, skipped := 0 }
    let port (cs : Bool) : Port :=
      { framing := if cs then .idle else .discarding, miso := if cs then none else some false
        settings := { format := .basic, order := .little, lapse := 0, enable := {} }
        lapseTimer := none, latched := {}, cursor := cursor }
    ∃ t, exec (.fullReset tile1 tile0 cs0 cs1 quiet) s = .next t
      ∧ t.items.xCoils = 176 ∧ t.items.yCoils = 100 ∧ t.items.pitch = 400 ∧ t.items.dwell = 20 ∧ t.items.checkMode = .full
      ∧ t.items.maxDefects = 2 ∧ (∀ c : Chan, t.items.chans[c] = { m := 480 + 64 * c.val, n := 100 })
      ∧ t.items.framePeriod = 5000 ∧ t.items.quietGating = false ∧ t.items.quietTimeout = 500
      ∧ t.items.enterLevel = 2000 ∧ t.items.leaveLevel = 1200 ∧ t.items.leaveCount = 3
      ∧ t.items.contactOn = 80 ∧ t.items.contactOff = 40 ∧ t.items.ringBase = 0 ∧ t.items.ringBanks = 6
      ∧ (∀ k : Fin 4, t.items.kinds[k] = if k = 0 then k0 else other)
      ∧ (∀ c : Fin 4, t.curves[c] = if c = 0 then .loaded [⟨0, 0⟩, ⟨4095, 8191⟩] else .empty)
      ∧ t.tile.toNat = 2 * tile1.toNat + tile0.toNat
      ∧ t = { items := t.items, curves := t.curves, map := { valid := false, x := ⟨[], 0⟩, y := ⟨[], 0⟩ }
              report := { outcome := .none, findings := [], truncated := false }, engine := .halted
              hold := ⟨false, false⟩, run := ⟨false, false⟩, slot0 := .free, slot1 := .free
              ring := { w := 0, o := 0, writePos := 0 }, store := [], tile := t.tile, entries := #v[none, none, none, none]
              pulse := none, quiet := quiet, counter := 0, port0 := port cs0, port1 := port cs1, pending := s.pending
              choices := s.choices }
      ∧ ∀ p, (t.pendingSet p).toHalf = 0 ∧ t.attn p = false

/-- Whatever the pins at the end of a full reset, the state it leaves has every law of the part (the premises of the laws'
statements can be met). -/
def Obligations.ResetMeetsLaws : Prop :=
  ∀ tile1 tile0 cs0 cs1 quiet : Bool,
    let s := State.resetWith tile1 tile0 cs0 cs1 quiet
    s.engineLaw = true ∧ s.slotLaw ∧ s.checkLaw ∧ s.curveLaw ∧ s.historyLaw

/-! ## The laws every step keeps -/

/-- "While the hold set is non-empty the engine is HALTED; in IDLE the run set is empty; and in SCANNING the run set is non-empty
and the hold set is empty" (R33), and with it the law of the slots: both FREE outside SCANNING (R57), no two TRACKING the same
kind (R61), fewer misses than the leave count (R65) and a last good sample past the ENTER (R66). Every step keeps both. -/
def Obligations.EngineAndSlotLawsKept : Prop :=
  (∀ s t : State, s.engineLaw = true → step s = .next t → t.engineLaw = true)
  ∧ ∀ s t : State, s.engineLaw = true → s.slotLaw → step s = .next t → t.slotLaw

/-- Every step keeps the law of the curves' states (R22) and, under the engine's law, the law of the map and the report: lists of at
most 8 in ascending order, none unlisted before a list is full, the map empty when INVALID outside a check and VALID after a
check that passed, and at most 16 findings, truncated only when 16 are stored (R8, R10, R12, R44). -/
def Obligations.CurveAndCheckLawsKept : Prop :=
  (∀ s t : State, s.curveLaw → step s = .next t → t.curveLaw)
  ∧ ∀ s t : State, s.engineLaw = true → s.checkLaw → step s = .next t → t.checkLaw

/-- Every step keeps the law of the stroke history: items in their ranges, the SRAM banks in canonical form (log 11), at most C
records held and each read back by its sequence (R99, R101), each cursor within O..W with thresholds inside the capacity
(R112, R113), every capture entry as its state says, in a bank of its own outside the ring, its copies in window order (R98,
R129, R130); a READ that sends a record finds next at it and the ring holding it unless a lap or flush has moved next (R117;
log 17), and a CAPTURE READ in progress sends the window of a READY entry of its port (R143). -/
def Obligations.HistoryLawKept : Prop :=
  ∀ s t : State, s.historyLaw → step s = .next t → t.historyLaw
end

