-- ==== Sys2Proof/Laws/State.lean ====
section
/-!
SUPPORT. One lemma for each field and each named update of the state, and the reads of what an update has written: what later
proofs use in place of unfolding a record update.
-/

namespace Sys2Proof.Machine

variable (s : State) (p q : PortId) (x : Port) (f : Port → Port) (c : Cursor) (k : Cond)
variable (i : SlotId) (y : Slot) (e : Fin 4) (z : Option Held) (r : Reply) (t : Xfer)


/-! ## `setPort` -/

@[simp] theorem State.setPort_items : (s.setPort p x).items = s.items := by cases p <;> rfl
@[simp] theorem State.setPort_curves : (s.setPort p x).curves = s.curves := by cases p <;> rfl
@[simp] theorem State.setPort_map : (s.setPort p x).map = s.map := by cases p <;> rfl
@[simp] theorem State.setPort_report : (s.setPort p x).report = s.report := by cases p <;> rfl
@[simp] theorem State.setPort_engine : (s.setPort p x).engine = s.engine := by cases p <;> rfl
@[simp] theorem State.setPort_hold : (s.setPort p x).hold = s.hold := by cases p <;> rfl
@[simp] theorem State.setPort_run : (s.setPort p x).run = s.run := by cases p <;> rfl
@[simp] theorem State.setPort_slot0 : (s.setPort p x).slot0 = s.slot0 := by cases p <;> rfl
@[simp] theorem State.setPort_slot1 : (s.setPort p x).slot1 = s.slot1 := by cases p <;> rfl
@[simp] theorem State.setPort_ring : (s.setPort p x).ring = s.ring := by cases p <;> rfl
@[simp] theorem State.setPort_store : (s.setPort p x).store = s.store := by cases p <;> rfl
@[simp] theorem State.setPort_tile : (s.setPort p x).tile = s.tile := by cases p <;> rfl
@[simp] theorem State.setPort_entries : (s.setPort p x).entries = s.entries := by cases p <;> rfl
@[simp] theorem State.setPort_pulse : (s.setPort p x).pulse = s.pulse := by cases p <;> rfl
@[simp] theorem State.setPort_quiet : (s.setPort p x).quiet = s.quiet := by cases p <;> rfl
@[simp] theorem State.setPort_counter : (s.setPort p x).counter = s.counter := by cases p <;> rfl
@[simp] theorem State.setPort_pending : (s.setPort p x).pending = s.pending := by cases p <;> rfl
@[simp] theorem State.setPort_choices : (s.setPort p x).choices = s.choices := by cases p <;> rfl

@[simp] theorem State.port_p0 : s.port .p0 = s.port0 := rfl
@[simp] theorem State.port_p1 : s.port .p1 = s.port1 := rfl
@[simp] theorem State.setPort_same : (s.setPort p x).port p = x := by cases p <;> rfl
@[simp] theorem State.setPort_self : s.setPort p (s.port p) = s := by cases p <;> rfl
@[simp] theorem State.setPort_setPort (x' : Port) : (s.setPort p x).setPort p x' = s.setPort p x' := by cases p <;> rfl
@[simp] theorem PortId.other_other : p.other.other = p := by cases p <;> rfl
@[simp] theorem PortId.other_ne : (p.other = p) = False := by cases p <;> simp [PortId.other]
@[simp] theorem PortId.ne_other : (p = p.other) = False := by cases p <;> simp [PortId.other]
@[simp] theorem State.setPort_other : (s.setPort p x).port p.other = s.port p.other := by cases p <;> rfl

/-- Reading a port after a port was replaced. -/
theorem State.port_setPort : (s.setPort p x).port q = if q = p then x else s.port q := by
  cases p <;> cases q <;> rfl

/-- A port is one of the two. -/
theorem PortId.eq_or_other : q = p ∨ q = p.other := by cases p <;> cases q <;> simp [PortId.other]

/-! ## `updPort`, `setCursor`, `raise`, `raiseBoth`, `answered` -/

@[simp] theorem State.updPort_items : (s.updPort p f).items = s.items := by cases p <;> rfl
@[simp] theorem State.updPort_curves : (s.updPort p f).curves = s.curves := by cases p <;> rfl
@[simp] theorem State.updPort_map : (s.updPort p f).map = s.map := by cases p <;> rfl
@[simp] theorem State.updPort_report : (s.updPort p f).report = s.report := by cases p <;> rfl
@[simp] theorem State.updPort_engine : (s.updPort p f).engine = s.engine := by cases p <;> rfl
@[simp] theorem State.updPort_hold : (s.updPort p f).hold = s.hold := by cases p <;> rfl
@[simp] theorem State.updPort_run : (s.updPort p f).run = s.run := by cases p <;> rfl
@[simp] theorem State.updPort_slot0 : (s.updPort p f).slot0 = s.slot0 := by cases p <;> rfl
@[simp] theorem State.updPort_slot1 : (s.updPort p f).slot1 = s.slot1 := by cases p <;> rfl
@[simp] theorem State.updPort_ring : (s.updPort p f).ring = s.ring := by cases p <;> rfl
@[simp] theorem State.updPort_store : (s.updPort p f).store = s.store := by cases p <;> rfl
@[simp] theorem State.updPort_tile : (s.updPort p f).tile = s.tile := by cases p <;> rfl
@[simp] theorem State.updPort_entries : (s.updPort p f).entries = s.entries := by cases p <;> rfl
@[simp] theorem State.updPort_pulse : (s.updPort p f).pulse = s.pulse := by cases p <;> rfl
@[simp] theorem State.updPort_quiet : (s.updPort p f).quiet = s.quiet := by cases p <;> rfl
@[simp] theorem State.updPort_counter : (s.updPort p f).counter = s.counter := by cases p <;> rfl
@[simp] theorem State.updPort_pending : (s.updPort p f).pending = s.pending := by cases p <;> rfl
@[simp] theorem State.updPort_choices : (s.updPort p f).choices = s.choices := by cases p <;> rfl

@[simp] theorem State.setCursor_items : (s.setCursor p c).items = s.items := by cases p <;> rfl
@[simp] theorem State.setCursor_curves : (s.setCursor p c).curves = s.curves := by cases p <;> rfl
@[simp] theorem State.setCursor_map : (s.setCursor p c).map = s.map := by cases p <;> rfl
@[simp] theorem State.setCursor_report : (s.setCursor p c).report = s.report := by cases p <;> rfl
@[simp] theorem State.setCursor_engine : (s.setCursor p c).engine = s.engine := by cases p <;> rfl
@[simp] theorem State.setCursor_hold : (s.setCursor p c).hold = s.hold := by cases p <;> rfl
@[simp] theorem State.setCursor_run : (s.setCursor p c).run = s.run := by cases p <;> rfl
@[simp] theorem State.setCursor_slot0 : (s.setCursor p c).slot0 = s.slot0 := by cases p <;> rfl
@[simp] theorem State.setCursor_slot1 : (s.setCursor p c).slot1 = s.slot1 := by cases p <;> rfl
@[simp] theorem State.setCursor_ring : (s.setCursor p c).ring = s.ring := by cases p <;> rfl
@[simp] theorem State.setCursor_store : (s.setCursor p c).store = s.store := by cases p <;> rfl
@[simp] theorem State.setCursor_tile : (s.setCursor p c).tile = s.tile := by cases p <;> rfl
@[simp] theorem State.setCursor_entries : (s.setCursor p c).entries = s.entries := by cases p <;> rfl
@[simp] theorem State.setCursor_pulse : (s.setCursor p c).pulse = s.pulse := by cases p <;> rfl
@[simp] theorem State.setCursor_quiet : (s.setCursor p c).quiet = s.quiet := by cases p <;> rfl
@[simp] theorem State.setCursor_counter : (s.setCursor p c).counter = s.counter := by cases p <;> rfl
@[simp] theorem State.setCursor_pending : (s.setCursor p c).pending = s.pending := by cases p <;> rfl
@[simp] theorem State.setCursor_choices : (s.setCursor p c).choices = s.choices := by cases p <;> rfl

@[simp] theorem State.raise_items : (s.raise p k).items = s.items := by cases p <;> rfl
@[simp] theorem State.raise_curves : (s.raise p k).curves = s.curves := by cases p <;> rfl
@[simp] theorem State.raise_map : (s.raise p k).map = s.map := by cases p <;> rfl
@[simp] theorem State.raise_report : (s.raise p k).report = s.report := by cases p <;> rfl
@[simp] theorem State.raise_engine : (s.raise p k).engine = s.engine := by cases p <;> rfl
@[simp] theorem State.raise_hold : (s.raise p k).hold = s.hold := by cases p <;> rfl
@[simp] theorem State.raise_run : (s.raise p k).run = s.run := by cases p <;> rfl
@[simp] theorem State.raise_slot0 : (s.raise p k).slot0 = s.slot0 := by cases p <;> rfl
@[simp] theorem State.raise_slot1 : (s.raise p k).slot1 = s.slot1 := by cases p <;> rfl
@[simp] theorem State.raise_ring : (s.raise p k).ring = s.ring := by cases p <;> rfl
@[simp] theorem State.raise_store : (s.raise p k).store = s.store := by cases p <;> rfl
@[simp] theorem State.raise_tile : (s.raise p k).tile = s.tile := by cases p <;> rfl
@[simp] theorem State.raise_entries : (s.raise p k).entries = s.entries := by cases p <;> rfl
@[simp] theorem State.raise_pulse : (s.raise p k).pulse = s.pulse := by cases p <;> rfl
@[simp] theorem State.raise_quiet : (s.raise p k).quiet = s.quiet := by cases p <;> rfl
@[simp] theorem State.raise_counter : (s.raise p k).counter = s.counter := by cases p <;> rfl
@[simp] theorem State.raise_pending : (s.raise p k).pending = s.pending := by cases p <;> rfl
@[simp] theorem State.raise_choices : (s.raise p k).choices = s.choices := by cases p <;> rfl

@[simp] theorem State.answered_items : (s.answered p r t).items = s.items := by cases p <;> rfl
@[simp] theorem State.answered_curves : (s.answered p r t).curves = s.curves := by cases p <;> rfl
@[simp] theorem State.answered_map : (s.answered p r t).map = s.map := by cases p <;> rfl
@[simp] theorem State.answered_report : (s.answered p r t).report = s.report := by cases p <;> rfl
@[simp] theorem State.answered_engine : (s.answered p r t).engine = s.engine := by cases p <;> rfl
@[simp] theorem State.answered_hold : (s.answered p r t).hold = s.hold := by cases p <;> rfl
@[simp] theorem State.answered_run : (s.answered p r t).run = s.run := by cases p <;> rfl
@[simp] theorem State.answered_slot0 : (s.answered p r t).slot0 = s.slot0 := by cases p <;> rfl
@[simp] theorem State.answered_slot1 : (s.answered p r t).slot1 = s.slot1 := by cases p <;> rfl
@[simp] theorem State.answered_ring : (s.answered p r t).ring = s.ring := by cases p <;> rfl
@[simp] theorem State.answered_store : (s.answered p r t).store = s.store := by cases p <;> rfl
@[simp] theorem State.answered_tile : (s.answered p r t).tile = s.tile := by cases p <;> rfl
@[simp] theorem State.answered_entries : (s.answered p r t).entries = s.entries := by cases p <;> rfl
@[simp] theorem State.answered_pulse : (s.answered p r t).pulse = s.pulse := by cases p <;> rfl
@[simp] theorem State.answered_quiet : (s.answered p r t).quiet = s.quiet := by cases p <;> rfl
@[simp] theorem State.answered_counter : (s.answered p r t).counter = s.counter := by cases p <;> rfl
@[simp] theorem State.answered_pending : (s.answered p r t).pending = s.pending := by cases p <;> rfl
@[simp] theorem State.answered_choices : (s.answered p r t).choices = s.choices := by cases p <;> rfl

@[simp] theorem State.raiseBoth_items : (s.raiseBoth k).items = s.items := rfl
@[simp] theorem State.raiseBoth_curves : (s.raiseBoth k).curves = s.curves := rfl
@[simp] theorem State.raiseBoth_map : (s.raiseBoth k).map = s.map := rfl
@[simp] theorem State.raiseBoth_report : (s.raiseBoth k).report = s.report := rfl
@[simp] theorem State.raiseBoth_engine : (s.raiseBoth k).engine = s.engine := rfl
@[simp] theorem State.raiseBoth_hold : (s.raiseBoth k).hold = s.hold := rfl
@[simp] theorem State.raiseBoth_run : (s.raiseBoth k).run = s.run := rfl
@[simp] theorem State.raiseBoth_slot0 : (s.raiseBoth k).slot0 = s.slot0 := rfl
@[simp] theorem State.raiseBoth_slot1 : (s.raiseBoth k).slot1 = s.slot1 := rfl
@[simp] theorem State.raiseBoth_ring : (s.raiseBoth k).ring = s.ring := rfl
@[simp] theorem State.raiseBoth_store : (s.raiseBoth k).store = s.store := rfl
@[simp] theorem State.raiseBoth_tile : (s.raiseBoth k).tile = s.tile := rfl
@[simp] theorem State.raiseBoth_entries : (s.raiseBoth k).entries = s.entries := rfl
@[simp] theorem State.raiseBoth_pulse : (s.raiseBoth k).pulse = s.pulse := rfl
@[simp] theorem State.raiseBoth_quiet : (s.raiseBoth k).quiet = s.quiet := rfl
@[simp] theorem State.raiseBoth_counter : (s.raiseBoth k).counter = s.counter := rfl
@[simp] theorem State.raiseBoth_pending : (s.raiseBoth k).pending = s.pending := rfl
@[simp] theorem State.raiseBoth_choices : (s.raiseBoth k).choices = s.choices := rfl

@[simp] theorem State.updPort_same : (s.updPort p f).port p = f (s.port p) := by cases p <;> rfl
@[simp] theorem State.updPort_other : (s.updPort p f).port p.other = s.port p.other := by cases p <;> rfl
@[simp] theorem State.setCursor_same : (s.setCursor p c).port p = { s.port p with cursor := c } := by cases p <;> rfl
@[simp] theorem State.setCursor_other : (s.setCursor p c).port p.other = s.port p.other := by cases p <;> rfl
@[simp] theorem State.raise_same : (s.raise p k).port p = { s.port p with latched := (s.port p).latched.raise k } := by
  cases p <;> rfl
@[simp] theorem State.raise_other : (s.raise p k).port p.other = s.port p.other := by cases p <;> rfl
@[simp] theorem State.answered_other : (s.answered p r t).port p.other = s.port p.other := by cases p <;> rfl

/-- Raising on both ports raises on each. -/
@[simp] theorem State.raiseBoth_port :
    (s.raiseBoth k).port p = { s.port p with latched := (s.port p).latched.raise k } := by cases p <;> rfl

/-- The response that `respond` starts is the one `answered` describes. -/
theorem State.respond_eq_answered : s.respond p r t = s.answered p r t := rfl

/-! ## `setSlot` -/

@[simp] theorem State.setSlot_items : (s.setSlot i y).items = s.items := by cases i <;> rfl
@[simp] theorem State.setSlot_curves : (s.setSlot i y).curves = s.curves := by cases i <;> rfl
@[simp] theorem State.setSlot_map : (s.setSlot i y).map = s.map := by cases i <;> rfl
@[simp] theorem State.setSlot_report : (s.setSlot i y).report = s.report := by cases i <;> rfl
@[simp] theorem State.setSlot_engine : (s.setSlot i y).engine = s.engine := by cases i <;> rfl
@[simp] theorem State.setSlot_hold : (s.setSlot i y).hold = s.hold := by cases i <;> rfl
@[simp] theorem State.setSlot_run : (s.setSlot i y).run = s.run := by cases i <;> rfl
@[simp] theorem State.setSlot_ring : (s.setSlot i y).ring = s.ring := by cases i <;> rfl
@[simp] theorem State.setSlot_store : (s.setSlot i y).store = s.store := by cases i <;> rfl
@[simp] theorem State.setSlot_tile : (s.setSlot i y).tile = s.tile := by cases i <;> rfl
@[simp] theorem State.setSlot_entries : (s.setSlot i y).entries = s.entries := by cases i <;> rfl
@[simp] theorem State.setSlot_pulse : (s.setSlot i y).pulse = s.pulse := by cases i <;> rfl
@[simp] theorem State.setSlot_quiet : (s.setSlot i y).quiet = s.quiet := by cases i <;> rfl
@[simp] theorem State.setSlot_counter : (s.setSlot i y).counter = s.counter := by cases i <;> rfl
@[simp] theorem State.setSlot_pending : (s.setSlot i y).pending = s.pending := by cases i <;> rfl
@[simp] theorem State.setSlot_choices : (s.setSlot i y).choices = s.choices := by cases i <;> rfl
@[simp] theorem State.setSlot_port0 : (s.setSlot i y).port0 = s.port0 := by cases i <;> rfl
@[simp] theorem State.setSlot_port1 : (s.setSlot i y).port1 = s.port1 := by cases i <;> rfl
@[simp] theorem State.setSlot_same : (s.setSlot i y).slot i = y := by cases i <;> rfl
@[simp] theorem State.setSlot_port : (s.setSlot i y).port p = s.port p := by cases i <;> cases p <;> rfl
@[simp] theorem State.slot_s0 : s.slot .s0 = s.slot0 := rfl
@[simp] theorem State.slot_s1 : s.slot .s1 = s.slot1 := rfl

/-! ## `setEntry` -/

@[simp] theorem State.setEntry_items : (s.setEntry e z).items = s.items := rfl
@[simp] theorem State.setEntry_curves : (s.setEntry e z).curves = s.curves := rfl
@[simp] theorem State.setEntry_map : (s.setEntry e z).map = s.map := rfl
@[simp] theorem State.setEntry_report : (s.setEntry e z).report = s.report := rfl
@[simp] theorem State.setEntry_engine : (s.setEntry e z).engine = s.engine := rfl
@[simp] theorem State.setEntry_hold : (s.setEntry e z).hold = s.hold := rfl
@[simp] theorem State.setEntry_run : (s.setEntry e z).run = s.run := rfl
@[simp] theorem State.setEntry_slot0 : (s.setEntry e z).slot0 = s.slot0 := rfl
@[simp] theorem State.setEntry_slot1 : (s.setEntry e z).slot1 = s.slot1 := rfl
@[simp] theorem State.setEntry_ring : (s.setEntry e z).ring = s.ring := rfl
@[simp] theorem State.setEntry_store : (s.setEntry e z).store = s.store := rfl
@[simp] theorem State.setEntry_tile : (s.setEntry e z).tile = s.tile := rfl
@[simp] theorem State.setEntry_pulse : (s.setEntry e z).pulse = s.pulse := rfl
@[simp] theorem State.setEntry_quiet : (s.setEntry e z).quiet = s.quiet := rfl
@[simp] theorem State.setEntry_counter : (s.setEntry e z).counter = s.counter := rfl
@[simp] theorem State.setEntry_pending : (s.setEntry e z).pending = s.pending := rfl
@[simp] theorem State.setEntry_choices : (s.setEntry e z).choices = s.choices := rfl
@[simp] theorem State.setEntry_port0 : (s.setEntry e z).port0 = s.port0 := rfl
@[simp] theorem State.setEntry_port1 : (s.setEntry e z).port1 = s.port1 := rfl
@[simp] theorem State.setEntry_port : (s.setEntry e z).port p = s.port p := by cases p <;> rfl
@[simp] theorem State.setEntry_same : (s.setEntry e z).entry e = z := by simp [State.entry, State.setEntry]

/-- Reading an entry after an entry was replaced. -/
theorem State.entry_setEntry (e' : Fin 4) : (s.setEntry e z).entry e' = if e' = e then z else s.entry e' := by
  by_cases h : e' = e
  · subst h; simp
  · have h' : ¬ (e : Nat) = (e' : Nat) := fun g => h (Fin.ext g.symm)
    simp [State.entry, State.setEntry, h, h']

end Sys2Proof.Machine
end

