-- ==== Sys2Proof/Laws/Store.lean ====
section
/-!
SUPPORT. The SRAM banks: a read after a write, and the canonical form, which every write keeps.
-/

namespace Sys2Proof.Machine

/-- A read of the slot just written gives the record written. -/
theorem Store.read_write_same (m : Store) (a : Nat) (r : Record) : Store.read (Store.write m a r) a = some r := by
  induction m with
  | nil => simp [Store.write, Store.read]
  | cons c rest ih =>
    obtain ⟨k, q⟩ := c
    simp only [Store.write]
    split
    · simp [Store.read]
    · split
      · simp [Store.read]
      · next h1 h2 => simp [Store.read, Ne.symm h2, ih]

/-- A write leaves every other slot as it reads. -/
theorem Store.read_write_other (m : Store) (a b : Nat) (r : Record) (h : b ≠ a) :
    Store.read (Store.write m a r) b = Store.read m b := by
  induction m with
  | nil => simp [Store.write, Store.read, Ne.symm h]
  | cons c rest ih =>
    obtain ⟨k, q⟩ := c
    simp only [Store.write]
    split
    · simp [Store.read, Ne.symm h]
    · split
      · next h2 => subst h2; simp [Store.read, Ne.symm h]
      · simp [Store.read, ih]

/-- Reading after a write. -/
theorem Store.read_write (m : Store) (a b : Nat) (r : Record) :
    Store.read (Store.write m a r) b = if b = a then some r else Store.read m b := by
  split
  · next h => subst h; exact Store.read_write_same m b r
  · next h => exact Store.read_write_other m a b r h

/-- The addresses after a write are those before and the address written. -/
theorem Store.mem_write_addr (m : Store) (a : Nat) (r : Record) (x : Nat) (h : x ∈ (Store.write m a r).map Prod.fst) :
    x = a ∨ x ∈ m.map Prod.fst := by
  induction m with
  | nil => simpa [Store.write] using h
  | cons c rest ih =>
    obtain ⟨k, q⟩ := c
    simp only [Store.write] at h
    split at h
    · simpa using h
    · split at h
      · simp only [List.map_cons, List.mem_cons] at h ⊢; tauto
      · simp only [List.map_cons, List.mem_cons] at h ⊢
        rcases h with h | h
        · tauto
        · rcases ih h with h | h <;> tauto

/-- A write keeps the addresses strictly rising. -/
theorem Store.write_wf (m : Store) (a : Nat) (r : Record) (h : Store.wf m) : Store.wf (Store.write m a r) := by
  induction m with
  | nil => simp [Store.wf, Store.write]
  | cons c rest ih =>
    obtain ⟨k, q⟩ := c
    simp only [Store.wf, List.map_cons, List.pairwise_cons] at h ih ⊢
    simp only [Store.write]
    split
    · next hlt =>
      simp only [List.map_cons, List.pairwise_cons, List.mem_cons, forall_eq_or_imp]
      exact ⟨⟨hlt, fun x hx => lt_trans hlt (h.1 x hx)⟩, h.1, h.2⟩
    · split
      · next h1 h2 => subst h2; exact List.pairwise_cons.mpr ⟨h.1, h.2⟩
      · next h1 h2 =>
        refine List.pairwise_cons.mpr ⟨fun x hx => ?_, ih h.2⟩
        rcases Store.mem_write_addr rest a r x hx with rfl | hx
        · show k < x; omega
        · exact h.1 x hx

/-- The empty store, which State.reset holds, is canonical. -/
theorem Store.nil_wf : Store.wf ([] : Store) := by simp [Store.wf]

end Sys2Proof.Machine
end

