-- ==== Sys2Proof/Laws/Ops.lean ====
section
/-!
SUPPORT. For each shared operation, once, everything it can do: a request taken or not, the lap of a cursor, the overtaking of
an entry, an append, a flush, a release and a trigger.
-/

namespace Sys2Proof.Machine

variable (s : State) (p : PortId) (e : Fin 4) (h : Held) (old : Seq) (time : Time) (body : RecordBody)

/-! ## Requests -/

/-- A request of a port that is receiving one takes its effect and fixes its response. -/
theorem State.onRequest_receiving (f : State → Answer) (hr : s.receiving p = true) :
    s.onRequest p f = (f s).state.answered p (f s).reply (f s).xfer := by
  unfold State.receiving at hr
  unfold State.onRequest
  cases hf : (s.port p).framing <;> simp_all [State.respond_eq_answered]

/-- A request of a port that is receiving none does nothing. -/
theorem State.onRequest_not_receiving (f : State → Answer) (hr : s.receiving p = false) : s.onRequest p f = s := by
  unfold State.receiving at hr
  unfold State.onRequest
  cases hf : (s.port p).framing <;> simp_all

/-! ## The lap of a cursor (R114) and the overtaking of an entry (R140) -/

/-- What the overwriting of sequence `old` does to a cursor. -/
theorem State.lapCursor_cases :
    ((s.port p).cursor.next ≠ old ∧ s.lapCursor p old = s)
    ∨ ((s.port p).cursor.next = old ∧ (s.port p).cursor.mode = .sequential ∧
        s.lapCursor p old
          = (s.setCursor p { (s.port p).cursor with
              next := old + 1, skipped := addSkipped (s.port p).cursor.skipped 1, moved := true }).raise p .lapped)
    ∨ ((s.port p).cursor.next = old ∧ (s.port p).cursor.mode = .latest ∧
        s.lapCursor p old = s.setCursor p { (s.port p).cursor with next := old + 1, moved := true }) := by
  by_cases hn : (s.port p).cursor.next = old
  · cases hm : (s.port p).cursor.mode <;> simp [State.lapCursor, hn, hm]
  · simp [State.lapCursor, hn]

/-- What the overwriting of sequence `old` does to an entry. -/
theorem State.overtakeEntry_cases :
    s.overtakeEntry old e = s
    ∨ ∃ g, s.entry e = some g ∧ g.stage = .filling ∧ g.nextSeq = some old
        ∧ s.overtakeEntry old e = s.failEntry e g .overtaken := by
  unfold State.overtakeEntry
  cases hg : s.entry e with
  | none => simp
  | some g =>
    by_cases hc : g.stage = .filling ∧ g.nextSeq = some old
    · exact .inr ⟨g, rfl, hc.1, hc.2, by simp [hc]⟩
    · simp [hc]

/-! ## What each operation leaves alone -/

/-- What the overwriting of a record leaves alone: everything but the cursor and the latched set of the port. -/
theorem State.lapCursor_frame : ∃ x, s.lapCursor p old = s.setPort p x := by
  rcases s.lapCursor_cases p old with ⟨_, h⟩ | ⟨_, _, h⟩ | ⟨_, _, h⟩ <;> rw [h]
  · exact ⟨s.port p, by simp⟩
  · cases p <;> exact ⟨_, rfl⟩
  · cases p <;> exact ⟨_, rfl⟩

/-- What the overtaking of an entry leaves alone: everything but the entries and a port. -/
theorem State.overtakeEntry_frame : ∃ x q y, s.overtakeEntry old e = (s.setEntry e x).setPort q y := by
  rcases s.overtakeEntry_cases e old with h | ⟨g, _, _, _, h⟩ <;> rw [h]
  · refine ⟨s.entry e, .p0, s.port0, ?_⟩
    simp [State.setEntry, State.setPort, State.entry]
  · exact ⟨_, g.owner, _, rfl⟩

@[simp] theorem State.lapCursor_items : (s.lapCursor p old).items = s.items := by
  obtain ⟨x, h⟩ := s.lapCursor_frame p old; simp [h]
@[simp] theorem State.lapCursor_curves : (s.lapCursor p old).curves = s.curves := by
  obtain ⟨x, h⟩ := s.lapCursor_frame p old; simp [h]
@[simp] theorem State.lapCursor_map : (s.lapCursor p old).map = s.map := by
  obtain ⟨x, h⟩ := s.lapCursor_frame p old; simp [h]
@[simp] theorem State.lapCursor_report : (s.lapCursor p old).report = s.report := by
  obtain ⟨x, h⟩ := s.lapCursor_frame p old; simp [h]
@[simp] theorem State.lapCursor_engine : (s.lapCursor p old).engine = s.engine := by
  obtain ⟨x, h⟩ := s.lapCursor_frame p old; simp [h]
@[simp] theorem State.lapCursor_hold : (s.lapCursor p old).hold = s.hold := by
  obtain ⟨x, h⟩ := s.lapCursor_frame p old; simp [h]
@[simp] theorem State.lapCursor_run : (s.lapCursor p old).run = s.run := by
  obtain ⟨x, h⟩ := s.lapCursor_frame p old; simp [h]
@[simp] theorem State.lapCursor_slot0 : (s.lapCursor p old).slot0 = s.slot0 := by
  obtain ⟨x, h⟩ := s.lapCursor_frame p old; simp [h]
@[simp] theorem State.lapCursor_slot1 : (s.lapCursor p old).slot1 = s.slot1 := by
  obtain ⟨x, h⟩ := s.lapCursor_frame p old; simp [h]
@[simp] theorem State.lapCursor_tile : (s.lapCursor p old).tile = s.tile := by
  obtain ⟨x, h⟩ := s.lapCursor_frame p old; simp [h]
@[simp] theorem State.lapCursor_pulse : (s.lapCursor p old).pulse = s.pulse := by
  obtain ⟨x, h⟩ := s.lapCursor_frame p old; simp [h]
@[simp] theorem State.lapCursor_quiet : (s.lapCursor p old).quiet = s.quiet := by
  obtain ⟨x, h⟩ := s.lapCursor_frame p old; simp [h]
@[simp] theorem State.lapCursor_counter : (s.lapCursor p old).counter = s.counter := by
  obtain ⟨x, h⟩ := s.lapCursor_frame p old; simp [h]
@[simp] theorem State.lapCursor_pending : (s.lapCursor p old).pending = s.pending := by
  obtain ⟨x, h⟩ := s.lapCursor_frame p old; simp [h]
@[simp] theorem State.lapCursor_choices : (s.lapCursor p old).choices = s.choices := by
  obtain ⟨x, h⟩ := s.lapCursor_frame p old; simp [h]
@[simp] theorem State.lapCursor_ring : (s.lapCursor p old).ring = s.ring := by
  obtain ⟨x, h⟩ := s.lapCursor_frame p old; simp [h]
@[simp] theorem State.lapCursor_store : (s.lapCursor p old).store = s.store := by
  obtain ⟨x, h⟩ := s.lapCursor_frame p old; simp [h]
@[simp] theorem State.lapCursor_entries : (s.lapCursor p old).entries = s.entries := by
  obtain ⟨x, h⟩ := s.lapCursor_frame p old; simp [h]

@[simp] theorem State.overtakeEntry_items : (s.overtakeEntry old e).items = s.items := by
  obtain ⟨x, q, y, h⟩ := s.overtakeEntry_frame e old; simp [h]
@[simp] theorem State.overtakeEntry_curves : (s.overtakeEntry old e).curves = s.curves := by
  obtain ⟨x, q, y, h⟩ := s.overtakeEntry_frame e old; simp [h]
@[simp] theorem State.overtakeEntry_map : (s.overtakeEntry old e).map = s.map := by
  obtain ⟨x, q, y, h⟩ := s.overtakeEntry_frame e old; simp [h]
@[simp] theorem State.overtakeEntry_report : (s.overtakeEntry old e).report = s.report := by
  obtain ⟨x, q, y, h⟩ := s.overtakeEntry_frame e old; simp [h]
@[simp] theorem State.overtakeEntry_engine : (s.overtakeEntry old e).engine = s.engine := by
  obtain ⟨x, q, y, h⟩ := s.overtakeEntry_frame e old; simp [h]
@[simp] theorem State.overtakeEntry_hold : (s.overtakeEntry old e).hold = s.hold := by
  obtain ⟨x, q, y, h⟩ := s.overtakeEntry_frame e old; simp [h]
@[simp] theorem State.overtakeEntry_run : (s.overtakeEntry old e).run = s.run := by
  obtain ⟨x, q, y, h⟩ := s.overtakeEntry_frame e old; simp [h]
@[simp] theorem State.overtakeEntry_slot0 : (s.overtakeEntry old e).slot0 = s.slot0 := by
  obtain ⟨x, q, y, h⟩ := s.overtakeEntry_frame e old; simp [h]
@[simp] theorem State.overtakeEntry_slot1 : (s.overtakeEntry old e).slot1 = s.slot1 := by
  obtain ⟨x, q, y, h⟩ := s.overtakeEntry_frame e old; simp [h]
@[simp] theorem State.overtakeEntry_tile : (s.overtakeEntry old e).tile = s.tile := by
  obtain ⟨x, q, y, h⟩ := s.overtakeEntry_frame e old; simp [h]
@[simp] theorem State.overtakeEntry_pulse : (s.overtakeEntry old e).pulse = s.pulse := by
  obtain ⟨x, q, y, h⟩ := s.overtakeEntry_frame e old; simp [h]
@[simp] theorem State.overtakeEntry_quiet : (s.overtakeEntry old e).quiet = s.quiet := by
  obtain ⟨x, q, y, h⟩ := s.overtakeEntry_frame e old; simp [h]
@[simp] theorem State.overtakeEntry_counter : (s.overtakeEntry old e).counter = s.counter := by
  obtain ⟨x, q, y, h⟩ := s.overtakeEntry_frame e old; simp [h]
@[simp] theorem State.overtakeEntry_pending : (s.overtakeEntry old e).pending = s.pending := by
  obtain ⟨x, q, y, h⟩ := s.overtakeEntry_frame e old; simp [h]
@[simp] theorem State.overtakeEntry_choices : (s.overtakeEntry old e).choices = s.choices := by
  obtain ⟨x, q, y, h⟩ := s.overtakeEntry_frame e old; simp [h]
@[simp] theorem State.overtakeEntry_ring : (s.overtakeEntry old e).ring = s.ring := by
  obtain ⟨x, q, y, h⟩ := s.overtakeEntry_frame e old; simp [h]
@[simp] theorem State.overtakeEntry_store : (s.overtakeEntry old e).store = s.store := by
  obtain ⟨x, q, y, h⟩ := s.overtakeEntry_frame e old; simp [h]

/-! ## Appends (R103, R104) -/

/-- The record an append writes: the composed fields with the sequence and the tile of the ring (R103). -/
def State.appendedRecord : Record := { seq := s.ring.w, tile := s.tile, time := time, body := body }

/-- The store after an append: the record stands at the write position. -/
@[simp] theorem State.append_store :
    (s.append time body).store
      = Store.write s.store (s.ringAddr s.ring.writePos) (s.appendedRecord time body) := by
  unfold State.append
  split <;> simp [State.forPorts, State.forEntries, State.appendedRecord]

/-- The ring after an append: W one greater, O one greater when the ring was full, the write position one on. -/
theorem State.append_ring :
    (s.append time body).ring
      = { w := s.ring.w + 1, o := if s.count < s.capacity then s.ring.o else s.ring.o + 1, writePos := s.nextWritePos } := by
  unfold State.append
  split <;> simp [State.forPorts, State.forEntries, *]

@[simp] theorem State.append_items : (s.append time body).items = s.items := by
  unfold State.append; split <;> simp [State.forPorts, State.forEntries]
@[simp] theorem State.append_curves : (s.append time body).curves = s.curves := by
  unfold State.append; split <;> simp [State.forPorts, State.forEntries]
@[simp] theorem State.append_map : (s.append time body).map = s.map := by
  unfold State.append; split <;> simp [State.forPorts, State.forEntries]
@[simp] theorem State.append_report : (s.append time body).report = s.report := by
  unfold State.append; split <;> simp [State.forPorts, State.forEntries]
@[simp] theorem State.append_engine : (s.append time body).engine = s.engine := by
  unfold State.append; split <;> simp [State.forPorts, State.forEntries]
@[simp] theorem State.append_hold : (s.append time body).hold = s.hold := by
  unfold State.append; split <;> simp [State.forPorts, State.forEntries]
@[simp] theorem State.append_run : (s.append time body).run = s.run := by
  unfold State.append; split <;> simp [State.forPorts, State.forEntries]
@[simp] theorem State.append_slot0 : (s.append time body).slot0 = s.slot0 := by
  unfold State.append; split <;> simp [State.forPorts, State.forEntries]
@[simp] theorem State.append_slot1 : (s.append time body).slot1 = s.slot1 := by
  unfold State.append; split <;> simp [State.forPorts, State.forEntries]
@[simp] theorem State.append_tile : (s.append time body).tile = s.tile := by
  unfold State.append; split <;> simp [State.forPorts, State.forEntries]
@[simp] theorem State.append_pulse : (s.append time body).pulse = s.pulse := by
  unfold State.append; split <;> simp [State.forPorts, State.forEntries]
@[simp] theorem State.append_quiet : (s.append time body).quiet = s.quiet := by
  unfold State.append; split <;> simp [State.forPorts, State.forEntries]
@[simp] theorem State.append_counter : (s.append time body).counter = s.counter := by
  unfold State.append; split <;> simp [State.forPorts, State.forEntries]
@[simp] theorem State.append_pending : (s.append time body).pending = s.pending := by
  unfold State.append; split <;> simp [State.forPorts, State.forEntries]
@[simp] theorem State.append_choices : (s.append time body).choices = s.choices := by
  unfold State.append; split <;> simp [State.forPorts, State.forEntries]

/-- An append to a ring that has room hands nothing to the cursors and the captures. -/
theorem State.append_room (hc : s.count < s.capacity) :
    (s.append time body).port0 = s.port0 ∧ (s.append time body).port1 = s.port1
      ∧ (s.append time body).entries = s.entries := by
  simp [State.append, hc]

/-- An append keeps the canonical form of the store. -/
theorem State.append_wf (hw : Store.wf s.store) : Store.wf (s.append time body).store := by
  rw [State.append_store]; exact Store.write_wf _ _ _ hw

/-! ## Flushes (R108) -/

/-- What a flush does to an entry. -/
theorem State.flushEntry_cases :
    s.flushEntry e = s
    ∨ ∃ g, s.entry e = some g ∧ (g.stage = .armed ∨ g.stage = .filling) ∧ s.flushEntry e = s.failEntry e g .flushed := by
  unfold State.flushEntry
  cases hg : s.entry e with
  | none => simp
  | some g =>
    by_cases hc : g.stage = .armed ∨ g.stage = .filling
    · exact .inr ⟨g, rfl, hc, by simp [hc]⟩
    · simp [hc]

/-- What the failing of an entry by a flush leaves alone: everything but the entries and a port. -/
theorem State.flushEntry_frame : ∃ x q y, s.flushEntry e = (s.setEntry e x).setPort q y := by
  rcases s.flushEntry_cases e with h | ⟨g, _, _, h⟩ <;> rw [h]
  · refine ⟨s.entry e, .p0, s.port0, ?_⟩
    simp [State.setEntry, State.setPort, State.entry]
  · exact ⟨_, g.owner, _, rfl⟩

@[simp] theorem State.flushEntry_items : (s.flushEntry e).items = s.items := by
  obtain ⟨x, q, y, h⟩ := s.flushEntry_frame e; simp [h]
@[simp] theorem State.flushEntry_curves : (s.flushEntry e).curves = s.curves := by
  obtain ⟨x, q, y, h⟩ := s.flushEntry_frame e; simp [h]
@[simp] theorem State.flushEntry_map : (s.flushEntry e).map = s.map := by
  obtain ⟨x, q, y, h⟩ := s.flushEntry_frame e; simp [h]
@[simp] theorem State.flushEntry_report : (s.flushEntry e).report = s.report := by
  obtain ⟨x, q, y, h⟩ := s.flushEntry_frame e; simp [h]
@[simp] theorem State.flushEntry_engine : (s.flushEntry e).engine = s.engine := by
  obtain ⟨x, q, y, h⟩ := s.flushEntry_frame e; simp [h]
@[simp] theorem State.flushEntry_hold : (s.flushEntry e).hold = s.hold := by
  obtain ⟨x, q, y, h⟩ := s.flushEntry_frame e; simp [h]
@[simp] theorem State.flushEntry_run : (s.flushEntry e).run = s.run := by
  obtain ⟨x, q, y, h⟩ := s.flushEntry_frame e; simp [h]
@[simp] theorem State.flushEntry_slot0 : (s.flushEntry e).slot0 = s.slot0 := by
  obtain ⟨x, q, y, h⟩ := s.flushEntry_frame e; simp [h]
@[simp] theorem State.flushEntry_slot1 : (s.flushEntry e).slot1 = s.slot1 := by
  obtain ⟨x, q, y, h⟩ := s.flushEntry_frame e; simp [h]
@[simp] theorem State.flushEntry_tile : (s.flushEntry e).tile = s.tile := by
  obtain ⟨x, q, y, h⟩ := s.flushEntry_frame e; simp [h]
@[simp] theorem State.flushEntry_pulse : (s.flushEntry e).pulse = s.pulse := by
  obtain ⟨x, q, y, h⟩ := s.flushEntry_frame e; simp [h]
@[simp] theorem State.flushEntry_quiet : (s.flushEntry e).quiet = s.quiet := by
  obtain ⟨x, q, y, h⟩ := s.flushEntry_frame e; simp [h]
@[simp] theorem State.flushEntry_counter : (s.flushEntry e).counter = s.counter := by
  obtain ⟨x, q, y, h⟩ := s.flushEntry_frame e; simp [h]
@[simp] theorem State.flushEntry_pending : (s.flushEntry e).pending = s.pending := by
  obtain ⟨x, q, y, h⟩ := s.flushEntry_frame e; simp [h]
@[simp] theorem State.flushEntry_choices : (s.flushEntry e).choices = s.choices := by
  obtain ⟨x, q, y, h⟩ := s.flushEntry_frame e; simp [h]
@[simp] theorem State.flushEntry_ring : (s.flushEntry e).ring = s.ring := by
  obtain ⟨x, q, y, h⟩ := s.flushEntry_frame e; simp [h]
@[simp] theorem State.flushEntry_store : (s.flushEntry e).store = s.store := by
  obtain ⟨x, q, y, h⟩ := s.flushEntry_frame e; simp [h]

@[simp] theorem State.flushRing_items : s.flushRing.items = s.items := by
  simp [State.flushRing, State.forPorts, State.forEntries, State.flushCursor]
@[simp] theorem State.flushRing_curves : s.flushRing.curves = s.curves := by
  simp [State.flushRing, State.forPorts, State.forEntries, State.flushCursor]
@[simp] theorem State.flushRing_map : s.flushRing.map = s.map := by
  simp [State.flushRing, State.forPorts, State.forEntries, State.flushCursor]
@[simp] theorem State.flushRing_report : s.flushRing.report = s.report := by
  simp [State.flushRing, State.forPorts, State.forEntries, State.flushCursor]
@[simp] theorem State.flushRing_engine : s.flushRing.engine = s.engine := by
  simp [State.flushRing, State.forPorts, State.forEntries, State.flushCursor]
@[simp] theorem State.flushRing_hold : s.flushRing.hold = s.hold := by
  simp [State.flushRing, State.forPorts, State.forEntries, State.flushCursor]
@[simp] theorem State.flushRing_run : s.flushRing.run = s.run := by
  simp [State.flushRing, State.forPorts, State.forEntries, State.flushCursor]
@[simp] theorem State.flushRing_slot0 : s.flushRing.slot0 = s.slot0 := by
  simp [State.flushRing, State.forPorts, State.forEntries, State.flushCursor]
@[simp] theorem State.flushRing_slot1 : s.flushRing.slot1 = s.slot1 := by
  simp [State.flushRing, State.forPorts, State.forEntries, State.flushCursor]
@[simp] theorem State.flushRing_tile : s.flushRing.tile = s.tile := by
  simp [State.flushRing, State.forPorts, State.forEntries, State.flushCursor]
@[simp] theorem State.flushRing_pulse : s.flushRing.pulse = s.pulse := by
  simp [State.flushRing, State.forPorts, State.forEntries, State.flushCursor]
@[simp] theorem State.flushRing_quiet : s.flushRing.quiet = s.quiet := by
  simp [State.flushRing, State.forPorts, State.forEntries, State.flushCursor]
@[simp] theorem State.flushRing_counter : s.flushRing.counter = s.counter := by
  simp [State.flushRing, State.forPorts, State.forEntries, State.flushCursor]
@[simp] theorem State.flushRing_pending : s.flushRing.pending = s.pending := by
  simp [State.flushRing, State.forPorts, State.forEntries, State.flushCursor]
@[simp] theorem State.flushRing_choices : s.flushRing.choices = s.choices := by
  simp [State.flushRing, State.forPorts, State.forEntries, State.flushCursor]
@[simp] theorem State.flushRing_store : s.flushRing.store = s.store := by
  simp [State.flushRing, State.forPorts, State.forEntries, State.flushCursor]

/-- The ring after a flush: O at W, W and the write position as they were. -/
@[simp] theorem State.flushRing_ring : s.flushRing.ring = { s.ring with o := s.ring.w } := by
  simp [State.flushRing, State.forPorts, State.forEntries, State.flushCursor]

end Sys2Proof.Machine
end

