-- ==== Sys2Proof/Laws/Engine.lean ====
section
/-!
SUPPORT. What the operations of the engine, the slots, the captures and the configuration can do, each said once by its cases: what
later proofs cite in place of unfolding.
-/

namespace Sys2Proof.Machine

variable (s : State) (p : PortId) (e : Fin 4) (h : Held) (time : Time) (i : SlotId) (t : Track)

/-! ## The report (R44) -/

/-- A report that holds at most 16 findings keeps the first 16 of all and the truncated mark for any beyond. -/
theorem Report.addAll_take (r : Report) (fs : List Finding) (hr : r.findings.length ≤ 16) :
    r.addAll fs = { r with
      findings := (r.findings ++ fs).take 16
      truncated := r.truncated || decide (16 < r.findings.length + fs.length) } := by
  unfold Report.addAll
  induction fs generalizing r with
  | nil => cases r; simp at hr ⊢; exact ⟨hr, by omega⟩
  | cons f rest ih =>
    rw [List.foldl_cons]
    by_cases hl : r.findings.length < 16
    · rw [ih _ (by simp [Report.add, hl])]
      simp [Report.add, hl, Nat.add_assoc, Nat.add_comm 1]
    · have he : r.findings.length = 16 := by omega
      rw [ih _ (by simp [Report.add, he])]
      simp [Report.add, he]

/-! ## Slots (R64, R65, R71) -/

/-- A slot that leaves becomes FREE, with a LEAVE and PROX when it has written its ENTER. -/
theorem State.leave_cases :
    ((Slot.tracking t).closingRecord i = none ∧ s.leave i t time = s.setSlot i .free)
    ∨ ∃ v, t.first = false ∧ t.lastGood = some v
        ∧ s.leave i t time = ((s.append time (.stroke .leave (leaveOf i t v))).raiseBoth .prox).setSlot i .free := by
  unfold State.leave Slot.closingRecord
  cases hf : t.first <;> cases hl : t.lastGood <;> simp [hf, hl]

/-- Closing a slot leaves a FREE one as it is and makes a TRACKING one leave. -/
theorem State.closeSlot_cases :
    (s.slot i = .free ∧ s.closeSlot i time = s)
    ∨ ∃ t, s.slot i = .tracking t ∧ s.closeSlot i time = s.leave i t time := by
  unfold State.closeSlot
  cases s.slot i <;> simp

/-- The solve stage leaves a FREE slot as it is and judges a TRACKING one by its frame strength. -/
theorem State.solveSlot_cases (got : List (TrackRead × Reading)) :
    (s.slot i = .free ∧ s.solveSlot got time i = s)
    ∨ ∃ t, s.slot i = .tracking t
        ∧ ((s.items.leaveLevel ≤ (s.solveFor got i t).vals.tipAmp
              ∧ s.solveSlot got time i = s.goodFrame i t (s.solveFor got i t) time)
          ∨ ((s.solveFor got i t).vals.tipAmp < s.items.leaveLevel
              ∧ s.solveSlot got time i = s.faintFrame i t (s.solveFor got i t) time)) := by
  unfold State.solveSlot
  cases hs : s.slot i with
  | free => simp
  | tracking t =>
    by_cases hg : s.items.leaveLevel ≤ (s.solveFor got i t).vals.tipAmp
    · exact .inr ⟨t, rfl, .inl ⟨hg, by simp [hg]⟩⟩
    · exact .inr ⟨t, rfl, .inr ⟨by omega, by simp [hg]⟩⟩

/-! ## Captures (R132, R138 to R140) -/

/-- A relative entry that triggers has its window fixed, FILLING, or READY with CAPTURE raised when the window is empty. -/
theorem State.triggerHeld_cases (back ahead : Nat) (hr : h.reach = some (back, ahead)) :
    ((s.window back ahead).target = 0
      ∧ s.triggerHeld e h = (s.setEntry e (some { h with
          stage := .ready, window := some (s.window back ahead), copied := 0, readPos := 0 })).raise h.owner .capture)
    ∨ ((s.window back ahead).target ≠ 0
      ∧ s.triggerHeld e h = s.setEntry e (some { h with
          stage := .filling, window := some (s.window back ahead), copied := 0, readPos := 0 })) := by
  by_cases hz : (s.window back ahead).target = 0
  · exact .inl ⟨hz, by simp [State.triggerHeld, hr, hz]⟩
  · exact .inr ⟨hz, by simp [State.triggerHeld, hr, hz]⟩

/-- A copy does nothing, copies the next record of a FILLING entry, or finds that it has been overtaken. -/
theorem State.captureCopy_cases :
    s.captureCopy e = s
    ∨ ∃ h w, s.entry e = some h ∧ h.stage = .filling ∧ h.window = some w
        ∧ ((∃ r, s.ringRead (w.start + BitVec.ofNat 32 h.copied) = some r
              ∧ s.captureCopy e
                = ({ s with store := Store.write s.store (bankAddr h.bank.val h.copied) r } : State).afterCopy e h w.target)
          ∨ (s.older (w.start + BitVec.ofNat 32 h.copied) s.ring.o = true
              ∧ s.captureCopy e = s.failEntry e h .overtaken)) := by
  unfold State.captureCopy
  cases he : s.entry e with
  | none => simp
  | some h =>
    by_cases hf : h.stage = .filling ∧ h.window.isSome = true
    · obtain ⟨hs, hw⟩ := hf
      obtain ⟨w, hw⟩ := Option.isSome_iff_exists.mp hw
      simp only [hs, hw]
      cases hr : s.ringRead (w.start + BitVec.ofNat 32 h.copied) with
      | some r => exact .inr ⟨h, w, rfl, hs, hw, .inl ⟨r, hr, rfl⟩⟩
      | none =>
        by_cases ho : s.older (w.start + BitVec.ofNat 32 h.copied) s.ring.o = true
        · exact .inr ⟨h, w, rfl, hs, hw, .inr ⟨ho, by simp [ho]⟩⟩
        · exact .inl (by simp [ho])
    · left
      cases hs : h.stage <;> cases hw : h.window <;> simp_all

/-! ## The check and the sets (R38, R40, R43) -/

/-- The check completes FAILED in HALTED, or PASSED in IDLE or SCANNING. -/
theorem State.completeCheck_cases (failed : Bool) :
    (failed = true
      ∧ s.completeCheck failed
        = (({ s with report := { s.report with outcome := .failed } } : State).toEngine .halted).raiseBoth .check)
    ∨ (failed = false ∧ s.run.isEmpty = true
      ∧ s.completeCheck failed = ({ s with report := { s.report with outcome := .passed } } : State).toEngine .idle)
    ∨ (failed = false ∧ s.run.isEmpty = false
      ∧ s.completeCheck failed = ({ s with report := { s.report with outcome := .passed } } : State).enterScanning) := by
  unfold State.completeCheck
  cases failed <;> cases hr : s.run.isEmpty <;> simp [hr]

/-- The array check starts a FULL sensing pass over an empty map, or completes at once by its derivation. -/
theorem State.startArrayCheck_cases :
    (s.sensesArray = true
      ∧ s.startArrayCheck = { s with map := DefectMap.invalid, engine := .checking SensePass.start })
    ∨ (s.sensesArray = false
      ∧ s.startArrayCheck
        = ({ s with report := s.report.addAll (deriveFindings s.map s.items.maxDefects) } : State).completeCheck
            ((deriveFindings s.map s.items.maxDefects).any Finding.isFail)) := by
  unfold State.startArrayCheck
  cases hc : s.sensesArray <;> simp

/-- A withdrawal changes the two sets, and beside them starts the check, stops frames or does no more. -/
theorem State.withdraw_cases :
    (s.hold.has p = false ∧ s.run.has p = false ∧ s.withdraw p = s)
    ∨ (let left : State := { s with hold := s.hold.erase p, run := s.run.erase p }
       s.withdraw p = left
       ∨ (s.engine = .halted ∧ s.hold.has p = true ∧ left.hold.isEmpty = true ∧ s.withdraw p = left.startCheck)
       ∨ ∃ r, s.engine = .scanning r ∧ left.run.isEmpty = true ∧ s.withdraw p = left.stopFrames p r .stopped .idle) := by
  unfold State.withdraw
  by_cases hc : (s.hold.has p || s.run.has p) = true
  · right
    simp only [hc, if_true]
    cases he : s.engine with
    | halted =>
      by_cases hh : (s.hold.has p && (s.hold.erase p).isEmpty) = true
      · simp only [hh, if_true]
        simp at hh
        exact .inr (.inl ⟨trivial, hh.1, hh.2, trivial⟩)
      · simp [hh]
    | scanning r =>
      by_cases hh : (s.run.erase p).isEmpty = true
      · simp [hh]
      · simp [hh]
    | checking _ => simp
    | idle => simp
  · left
    simp at hc
    simp [hc]

/-! ## Configuration (R46) -/

/-- A value that an item accepts is one it can hold. -/
theorem Item.accept_admits (x : Item) (v w : Nat) (ha : x.accept v = some w) : x.range.admits w = true := by
  unfold Item.accept at ha
  cases hr : x.range with
  | codes n => simp only [hr] at ha; split at ha <;> simp_all [ItemRange.admits]
  | numeric low high =>
    simp only [hr, Option.some.injEq] at ha
    have hlh : low ≤ high ∧ (x = .pitch → low % 2 = 0) := by
      cases x with
      | kind k f => cases f <;> simp_all [Item.range] <;> omega
      | _ => simp_all [Item.range] <;> omega
    subst ha
    have h1 : ∀ c, low ≤ c → c ≤ high → (ItemRange.numeric low high).admits c = true := by
      intro c a b
      simp [ItemRange.admits, a, b]
    have h2 : low ≤ clampNat low high v ∧ clampNat low high v ≤ high := by
      simp only [clampNat]
      omega
    split
    · have := hlh.2 ‹_›
      exact h1 _ (by omega) (by omega)
    · exact h1 _ h2.1 h2.2

/-! ## The solver's call and the bytes of a field, as the statements spell them -/

/-- The sample of a slot is the one its solve stage works with. -/
theorem State.sampleOf_eq_solveFor (got : List (TrackRead × Reading)) : s.sampleOf got i t = s.solveFor got i t := by
  unfold State.sampleOf State.solveFor State.windowIn readingsOf windowFirst WindowId.axis Track.centre Items.coils
    DefectMap.coils DefectMap.axis Items.kind Curve.knots
  simp only [Bool.decide_and]
  rfl

theorem sentBytes_one (order : ByteOrder) (v : Byte) : sentBytes order v.toNat 1 = [v] := by
  cases order <;> simp [sentBytes, List.range, List.range.loop]

theorem sentBytes_two (order : ByteOrder) (v : Half) : sentBytes order v.toNat 2 = halfBytes order v := by
  cases order <;> simp [sentBytes, halfBytes, List.range, List.range.loop]
  all_goals constructor <;> apply BitVec.eq_of_toNat_eq <;> simp [BitVec.extractLsb'_toNat, Nat.shiftRight_eq_div_pow]

theorem sentBytes_four (order : ByteOrder) (v : Word) : sentBytes order v.toNat 4 = wordBytes order v := by
  cases order <;> simp [sentBytes, wordBytes, List.range, List.range.loop]
  all_goals
    refine ⟨?_, ?_, ?_, ?_⟩ <;> apply BitVec.eq_of_toNat_eq <;> simp [BitVec.extractLsb'_toNat, Nat.shiftRight_eq_div_pow]

end Sys2Proof.Machine
end

