-- ==== Sys2Proof/Laws/Together.lean ====
section
/-!
SUPPORT. What the events that fall together with an append can do (R109, R128): each once, and then all that are taken.
-/

namespace Sys2Proof.Machine

variable (s : State) (p : PortId) (busy : List PortId)

/-- `t` differs from `s` only where an event of the ring or of a cursor acts: O, the entries and the two ports. -/
def State.ringOnly (s t : State) : Prop :=
  t = { s with
    ring := { s.ring with o := t.ring.o }, entries := t.entries, port0 := t.port0, port1 := t.port1 }

/-! ## What an event can change -/

theorem State.ringOnly_refl : s.ringOnly s := rfl

theorem State.ringOnly_trans {s t u : State} (h : s.ringOnly t) (k : t.ringOnly u) : s.ringOnly u := by
  unfold State.ringOnly at *
  rw [k, h]

theorem State.ringOnly_setPort (x : Port) : s.ringOnly (s.setPort p x) := by cases p <;> rfl

theorem State.ringOnly_setEntry (e : Fin 4) (x : Option Held) : s.ringOnly (s.setEntry e x) := rfl

theorem State.ringOnly_raiseBoth (c : Cond) : s.ringOnly (s.raiseBoth c) := rfl

theorem State.ringOnly_flushEntry (e : Fin 4) : s.ringOnly (s.flushEntry e) := by
  unfold State.flushEntry
  split
  · split
    · exact State.ringOnly_trans (s.ringOnly_setEntry e _) (State.ringOnly_setPort _ _ _)
    · exact s.ringOnly_refl
  · exact s.ringOnly_refl

theorem State.ringOnly_flush : s.ringOnly s.flushRing := by
  have hc (q : PortId) (u : State) : u.ringOnly (State.flushCursor q u) := State.ringOnly_setPort _ _ _
  have hp (u : State) : u.ringOnly (u.forPorts State.flushCursor) := State.ringOnly_trans (hc _ _) (hc _ _)
  have he (u : State) : u.ringOnly (u.forEntries State.flushEntry) :=
    State.ringOnly_trans
      (State.ringOnly_trans
        (State.ringOnly_trans (State.ringOnly_flushEntry _ _) (State.ringOnly_flushEntry _ _))
        (State.ringOnly_flushEntry _ _))
      (State.ringOnly_flushEntry _ _)
  have ho : s.ringOnly { s with ring := { s.ring with o := s.ring.w } } := rfl
  exact State.ringOnly_trans (State.ringOnly_trans (State.ringOnly_trans ho (hp _)) (he _)) (State.ringOnly_raiseBoth _ _)

/-- What a request of the ring or of a cursor can change, before its response. -/
theorem ringRequest_ringOnly {i : Instr} {f : State → Answer} (h : ringRequest i = some (p, f)) : s.ringOnly (f s).state := by
  cases i <;> simp only [ringRequest, Option.some.injEq, Prod.mk.injEq, reduceCtorEq] at h
  case flush => exact h.2 ▸ s.ringOnly_flush
  all_goals
    obtain ⟨rfl, rfl⟩ := h
    simp only [State.answerRead, State.answerMark, State.answerRewind, State.answerCursorSetup]
    repeat' split
    all_goals first | exact s.ringOnly_setPort _ _ | exact s.ringOnly_refl

/-- What such a request can change. -/
theorem State.onRequest_ringOnly {f : State → Answer} (h : s.ringOnly (f s).state) : s.ringOnly (s.onRequest p f) := by
  unfold State.onRequest
  split
  · exact State.ringOnly_trans h (State.ringOnly_setPort _ _ _)
  all_goals exact s.ringOnly_refl

theorem State.readPlaceBegin_ringOnly : s.ringOnly (s.readPlaceBegin p) := by
  unfold State.readPlaceBegin
  repeat' split
  all_goals first
    | exact s.ringOnly_refl
    | exact State.ringOnly_trans (State.ringOnly_setPort _ _ _) (State.ringOnly_setPort _ _ _)

theorem State.readRecordComplete_ringOnly : s.ringOnly (s.readRecordComplete p) := by
  unfold State.readRecordComplete
  repeat' split
  all_goals first
    | exact s.ringOnly_refl
    | exact State.ringOnly_trans (State.ringOnly_setPort _ _ _) (State.ringOnly_setPort _ _ _)

/-- What the event of a waiting command can change. -/
theorem State.ringEvent_ringOnly {s t : State} {p : PortId} {i : Instr} (h : s.ringEvent i = some (p, t)) :
    s.ringOnly t := by
  unfold State.ringEvent at h
  split at h
  · rename_i q edge mosi
    simp only [State.edgeEvent, Option.map_eq_some_iff, Prod.mk.injEq] at h
    obtain ⟨u, hu, -, rfl⟩ := h
    split at hu
    · simp only [Option.map_eq_some_iff, Option.bind_eq_some_iff] at hu
      obtain ⟨⟨_, f⟩, ⟨_, -, hi⟩, rfl⟩ := hu
      exact State.ringOnly_trans (State.ringOnly_setPort _ _ _)
        (State.onRequest_ringOnly _ _ (ringRequest_ringOnly _ _ hi))
    · cases hu
    · cases hu; split
      · exact State.readRecordComplete_ringOnly _ _
      · exact s.ringOnly_refl
    · cases hu; split
      · exact State.readPlaceBegin_ringOnly _ _
      · exact s.ringOnly_refl
    all_goals cases hu
  · simp only [Option.some.injEq, Prod.mk.injEq] at h
    exact h.2 ▸ State.readPlaceBegin_ringOnly _ _
  · simp only [Option.some.injEq, Prod.mk.injEq] at h
    exact h.2 ▸ State.readRecordComplete_ringOnly _ _
  · simp only [Option.map_eq_some_iff, Prod.mk.injEq] at h
    obtain ⟨⟨q, f⟩, hf, -, rfl⟩ := h
    exact State.onRequest_ringOnly _ _ (ringRequest_ringOnly _ _ hf)

/-- A property that every such event keeps, and the count of choices does not touch, holds of what is taken. -/
theorem State.takeTogether_induct (P : State → Prop) (hs : P s)
    (hevent : ∀ u t q i, P u → u.ringEvent i = some (q, t) → P t)
    (hchoices : ∀ (u : State) n, P u → P { u with choices := n }) : P (s.takeTogether busy) := by
  unfold State.takeTogether
  generalize s.pending = l
  induction l generalizing s busy with
  | nil => exact hs
  | cons i rest ih =>
    unfold State.takeFirst
    split
    · exact hs
    · rename_i q t he
      split
      · exact hs
      · split
        · exact ih _ _ (hchoices _ _ (hevent _ _ _ _ hs he))
        · exact hchoices _ _ hs

/-- What is taken together with an append can change, beside the count of choices. -/
theorem State.takeTogether_ringOnly : ∃ n, ({ s with choices := n } : State).ringOnly (s.takeTogether busy) :=
  s.takeTogether_induct busy (fun u => ∃ n, ({ s with choices := n } : State).ringOnly u) ⟨s.choices, s.ringOnly_refl⟩
    (fun _ _ _ _ ⟨n, h⟩ k => ⟨n, State.ringOnly_trans h (State.ringEvent_ringOnly k)⟩)
    (fun _ n ⟨_, h⟩ => ⟨n, by unfold State.ringOnly at h ⊢; rw [h]⟩)

/-- Where no command waits that brings an event of a port taking part, nothing is taken. -/
theorem State.takeTogether_alone
    (h : ∀ i rest q t, s.pending = i :: rest → s.ringEvent i = some (q, t) → busy.contains q = true) :
    s.takeTogether busy = s := by
  unfold State.takeTogether
  cases hp : s.pending with
  | nil => rfl
  | cons i rest =>
    unfold State.takeFirst
    split
    · rfl
    · rename_i q t he
      rw [if_pos (h _ _ _ _ hp he)]

/-! ## A command whose event has been taken -/

/-- The framing of a port whose response was replaced. -/
@[simp] theorem State.setResp_framing (left : Nat) (resp : Resp) :
    ((s.setResp p left resp).port p).framing = .response left resp := by cases p <;> rfl

/-- A request taken once finds no request being received. -/
theorem State.onRequest_again (f : State → Answer) : (s.onRequest p f).onRequest p f = s.onRequest p f := by
  cases hr : s.receiving p with
  | false => simp only [State.onRequest_not_receiving _ _ _ hr]
  | true =>
    rw [State.onRequest_receiving _ _ _ hr]
    exact State.onRequest_not_receiving _ _ _ (by cases p <;> rfl)

/-- READ_PLACE_BEGIN begins the place that is due, or does nothing. -/
theorem State.readPlaceBegin_cases :
    s.readPlaceBegin p = s
    ∨ ∃ left resp k done, (s.port p).framing = .response left resp ∧ resp.xfer = .read k done none ∧ done < k
        ∧ s.readPlaceBegin p
          = (s.setCursor p { (s.port p).cursor with moved := false }).setResp p left
              { resp with outBits := resp.placeStart done, xfer := .read k done (some (s.readPlace p)) } := by
  cases hf : (s.port p).framing with
  | response left resp =>
    cases hx : resp.xfer with
    | read k done cur =>
      cases cur with
      | none =>
        by_cases hk : done < k
        · exact .inr ⟨left, resp, k, done, rfl, hx, hk, by simp [State.readPlaceBegin, hf, hx, hk]⟩
        · exact .inl (by simp [State.readPlaceBegin, hf, hx, hk])
      | some pl => exact .inl (by simp [State.readPlaceBegin, hf, hx])
    | _ => exact .inl (by simp [State.readPlaceBegin, hf, hx])
  | _ => exact .inl (by simp [State.readPlaceBegin, hf])

/-- READ_RECORD_COMPLETE completes the place being sent, or does nothing. -/
theorem State.readRecordComplete_cases :
    s.readRecordComplete p = s
    ∨ ∃ left resp k done pl, (s.port p).framing = .response left resp ∧ resp.xfer = .read k done (some pl)
        ∧ s.readRecordComplete p
          = (s.setCursor p ((s.port p).cursor.sent pl)).setResp p transactionTime
              { resp with outBits := resp.placeStart (done + 1), xfer := .read k (done + 1) none } := by
  cases hf : (s.port p).framing with
  | response left resp =>
    cases hx : resp.xfer with
    | read k done cur =>
      cases cur with
      | none => exact .inl (by simp [State.readRecordComplete, hf, hx])
      | some pl => exact .inr ⟨left, resp, k, done, pl, rfl, hx, by simp [State.readRecordComplete, hf, hx]⟩
    | _ => exact .inl (by simp [State.readRecordComplete, hf, hx])
  | _ => exact .inl (by simp [State.readRecordComplete, hf])

/-- A place begun once is not due again. -/
theorem State.readPlaceBegin_again : (s.readPlaceBegin p).readPlaceBegin p = s.readPlaceBegin p := by
  obtain h | ⟨left, resp, k, done, -, -, -, h⟩ := s.readPlaceBegin_cases p
  · rw [h, h]
  · rw [h]
    conv_lhs => unfold State.readPlaceBegin
    simp

/-- A place completed once is not being sent. -/
theorem State.readRecordComplete_again : (s.readRecordComplete p).readRecordComplete p = s.readRecordComplete p := by
  obtain h | ⟨left, resp, k, done, pl, -, -, h⟩ := s.readRecordComplete_cases p
  · rw [h, h]
  · rw [h]
    conv_lhs => unfold State.readRecordComplete
    simp

/-- The meaning of a request of the ring or of a cursor is that request. -/
theorem exec_ringRequest {i : Instr} {f : State → Answer} (h : ringRequest i = some (p, f)) :
    exec i s = .next (s.onRequest p f) := by
  cases i <;> simp only [ringRequest, Option.some.injEq, Prod.mk.injEq, reduceCtorEq] at h
  all_goals
    obtain ⟨rfl, rfl⟩ := h
    rfl

/-- Clocked in, it takes the same effect. -/
theorem runRequest_ringRequest {i : Instr} {f : State → Answer} (h : ringRequest i = some (p, f)) :
    runRequest i s = .next (s.onRequest p f) := by
  cases i <;> simp only [ringRequest, Option.some.injEq, Prod.mk.injEq, reduceCtorEq] at h
  all_goals
    obtain ⟨rfl, rfl⟩ := h
    rfl

/-- A response that has just begun sends no place. -/
theorem ringRequest_xfer {i : Instr} {f : State → Answer} (h : ringRequest i = some (p, f)) (u : State) :
    ∀ k done pl, (f u).xfer ≠ .read k done (some pl)
      ∧ ∀ e live first, (f u).xfer ≠ .capture e live first k done (some pl) := by
  cases i <;> simp only [ringRequest, Option.some.injEq, Prod.mk.injEq, reduceCtorEq] at h
  all_goals
    obtain ⟨rfl, rfl⟩ := h
    simp only [State.answerRead, State.answerMark, State.answerRewind, State.answerCursorSetup, State.answerFlush]
    intro k done pl
    repeat' split
    all_goals simp

/-- A request that bytes of port `p` spell is one of `p`. -/
theorem ringRequest_port {order : ByteOrder} {code : Byte} {params : List Byte} {i : Instr} {q : PortId}
    {f : State → Answer} (hd : decodeRequest order p code params = some i) (hi : ringRequest i = some (q, f)) : q = p := by
  unfold decodeRequest at hd
  split at hd
  all_goals first
    | (cases hd; simp only [ringRequest, Option.some.injEq, Prod.mk.injEq, reduceCtorEq] at hi; try exact hi.1.symm)
    | (split at hd <;> cases hd; cases hi)
    | cases hd

/-- A command whose event has been taken does, in its own turn, what is left of it: its outcome is the one it would have had. -/
theorem State.exec_of_ringEvent {s t : State} {p : PortId} {i : Instr} (h : s.ringEvent i = some (p, t)) :
    exec i t = exec i s := by
  unfold State.ringEvent at h
  split at h
  · rename_i q edge mosi
    simp only [Option.map_eq_some_iff, Prod.mk.injEq] at h
    obtain ⟨u, hu, rfl, rfl⟩ := h
    unfold State.edgeEvent at hu
    show execSclkEdge q edge mosi u = execSclkEdge q edge mosi s
    split at hu
    · rename_i left rx hf
      simp only [Option.map_eq_some_iff, Option.bind_eq_some_iff] at hu
      obtain ⟨⟨q', f⟩, ⟨j, hj, hi⟩, rfl⟩ := hu
      have hq : q' = q := by
        unfold Rx.complete at hj
        split at hj
        · split at hj
          · exact ringRequest_port _ hj hi
          · cases hj
        · cases hj
      subst hq
      have hs : execSclkEdge q' .rise mosi s
          = .next ((s.updPort q' fun x => { x with framing := .request transactionTime (rx.shift mosi) }).onRequest q' f) := by
        simp only [execSclkEdge, hf, State.requestRise, hj]
        exact runRequest_ringRequest _ _ hi
      rw [hs]
      show execSclkEdge q' .rise mosi (State.onRequest _ q' f) = .next (State.onRequest _ q' f)
      generalize hv : (s.updPort q' fun x => { x with framing := .request transactionTime (rx.shift mosi) }) = v
      have hr : v.receiving q' = true := by subst hv; cases q' <;> rfl
      rw [State.onRequest_receiving _ _ _ hr]
      have hx := ringRequest_xfer _ hi v
      generalize f v = a at hx ⊢
      unfold execSclkEdge
      have hfr : ((a.state.answered q' a.reply a.xfer).port q').framing
          = .response 2000 { reply := a.reply, format := (a.state.port q').settings.format
                             order := (a.state.port q').settings.order, outBits := 0, xfer := a.xfer } := by
        cases q' <;> rfl
      rw [hfr]
      simp only [State.responseRise]
      rw [if_neg]
      · exact congrArg Host.Outcome.next (by cases q' <;> rfl)
      · simp only [Resp.placeSent]
        rcases hax : a.xfer with _ | ⟨k, done, _ | pl⟩ | ⟨e, live, first, k, done, _ | pl⟩
        all_goals simp
        · exact absurd hax (hx k done pl).1
        · exact absurd hax ((hx k done pl).2 e live first)
    · cases hu
    · rename_i left resp hf
      cases hu
      split
      · rename_i hp
        obtain hc | ⟨left', resp', k, done, pl, -, -, hc⟩ := s.readRecordComplete_cases q
        · rw [hc]
        · have hs : execSclkEdge q .rise mosi s = .next (s.readRecordComplete q) := by
            simp only [execSclkEdge, hf, State.responseRise, hp, if_true, State.placeComplete]
            refine congrArg Host.Outcome.next ?_
            rw [hc]
            unfold State.captureReadRecordComplete
            simp
          rw [hs, hc]
          unfold execSclkEdge
          simp only [State.setResp_framing, State.responseRise, Resp.placeSent]
          exact congrArg Host.Outcome.next (by cases q <;> rfl)
      · rfl
    · rename_i left resp hf
      cases hu
      split
      · rename_i hp
        obtain hc | ⟨left', resp', k, done, -, -, -, hc⟩ := s.readPlaceBegin_cases q
        · rw [hc]
        · have hs : execSclkEdge q .fall mosi s = .next ((s.readPlaceBegin q).shiftOut q) := by
            simp only [execSclkEdge, hf, State.responseFall, hp, if_true, State.placeBegin]
            refine congrArg (fun u : State => Host.Outcome.next (u.shiftOut q)) ?_
            rw [hc]
            unfold State.captureReadPlaceBegin
            simp
          rw [hs, hc]
          unfold execSclkEdge
          simp only [State.setResp_framing, State.responseFall, Resp.placeDue]
          rfl
      · rfl
    all_goals cases hu
  · simp only [Option.some.injEq, Prod.mk.injEq] at h
    obtain ⟨rfl, rfl⟩ := h
    exact congrArg Host.Outcome.next (s.readPlaceBegin_again _)
  · simp only [Option.some.injEq, Prod.mk.injEq] at h
    obtain ⟨rfl, rfl⟩ := h
    exact congrArg Host.Outcome.next (s.readRecordComplete_again _)
  · simp only [Option.map_eq_some_iff, Prod.mk.injEq] at h
    obtain ⟨⟨q, f⟩, hf, rfl, rfl⟩ := h
    rw [exec_ringRequest _ _ hf, exec_ringRequest _ _ hf]
    exact congrArg Host.Outcome.next (s.onRequest_again _ _)

/-! ## All that is taken -/

/-- A command that brings an event is one that may, of that port. -/
theorem State.ringEvent_atRing {s t : State} {p : PortId} {i : Instr} (h : s.ringEvent i = some (p, t)) : atRing p i := by
  unfold State.ringEvent at h
  unfold atRing
  split at h
  · simp only [Option.map_eq_some_iff, Prod.mk.injEq] at h
    obtain ⟨_, -, rfl, -⟩ := h
    simp
  · cases h; simp
  · cases h; simp
  · simp only [Option.map_eq_some_iff, Prod.mk.injEq] at h
    obtain ⟨⟨q, f⟩, hf, rfl, -⟩ := h
    cases i <;> simp only [ringRequest, Option.some.injEq, Prod.mk.injEq, reduceCtorEq] at hf
    all_goals obtain ⟨rfl, -⟩ := hf; simp

/-- The event that a waiting command brings is the one the rules give it. -/
theorem State.ringEvent_takes {s t : State} {p : PortId} {i : Instr} (h : s.ringEvent i = some (p, t)) :
    s.takes t p i := by
  unfold State.ringEvent at h
  unfold State.takes
  split at h
  · rename_i q edge mosi
    simp only [Option.map_eq_some_iff, Prod.mk.injEq] at h
    obtain ⟨u, hu, rfl, rfl⟩ := h
    unfold State.edgeEvent at hu
    split at hu
    · rename_i left rx hf
      simp only [Option.map_eq_some_iff, Option.bind_eq_some_iff] at hu
      obtain ⟨⟨q', f⟩, ⟨j, hj, hi⟩, rfl⟩ := hu
      have hq : q' = q := by
        unfold Rx.complete at hj
        split at hj
        · split at hj
          · exact ringRequest_port _ hj hi
          · cases hj
        · cases hj
      subst hq
      simp only [hf]
      refine ⟨j, hj, ?_, ?_⟩
      · cases j <;> simp only [ringRequest, Option.some.injEq, Prod.mk.injEq, reduceCtorEq] at hi
        all_goals obtain ⟨rfl, -⟩ := hi; simp [atRing]
      · show execSclkEdge q' .rise mosi s = _
        simp only [execSclkEdge, hf, State.requestRise, hj]
        exact runRequest_ringRequest _ _ hi
    · cases hu
    · rename_i left resp hf
      cases hu
      simp only [hf]
      constructor
      · rintro ⟨k, done, pl, hx, ho⟩
        have : resp.placeSent = true := by simp [Resp.placeSent, hx, ho, Resp.placeStart, headerLength]
        rw [if_pos this]; rfl
      · intro hn
        split
        · rename_i hp
          unfold Resp.placeSent at hp
          split at hp
          · rename_i k done pl hx
            exact absurd ⟨k, done, pl, hx, by simpa [Resp.placeStart, headerLength] using hp⟩ hn
          · rename_i hx
            simp [State.readRecordComplete, hf, hx]
          all_goals cases hp
        · rfl
    · rename_i left resp hf
      cases hu
      simp only [hf]
      constructor
      · rintro ⟨k, done, hx, hk, ho⟩
        have : resp.placeDue = true := by simp [Resp.placeDue, hx, ho, hk, Resp.placeStart, headerLength]
        rw [if_pos this]; rfl
      · intro hn
        split
        · rename_i hp
          unfold Resp.placeDue at hp
          split at hp
          · rename_i k done hx
            simp only [Bool.and_eq_true, decide_eq_true_eq, beq_iff_eq] at hp
            exact absurd ⟨k, done, hx, hp.1, by simpa [Resp.placeStart, headerLength] using hp.2⟩ hn
          · rename_i hx
            simp [State.readPlaceBegin, hf, hx]
          all_goals cases hp
        · rfl
    all_goals cases hu
  · cases h; rfl
  · cases h; rfl
  · rename_i hne _ _
    simp only [Option.map_eq_some_iff, Prod.mk.injEq] at h
    obtain ⟨⟨q, f⟩, hf, rfl, rfl⟩ := h
    split
    · exact absurd rfl (hne _ _ _)
    · exact exec_ringRequest _ _ hf

/-- An event of one port leaves the count of choices. -/
theorem State.ringEvent_choices {s t : State} {p : PortId} {i : Instr} (h : s.ringEvent i = some (p, t)) :
    t.choices = s.choices := by
  have hr := State.ringEvent_ringOnly h
  unfold State.ringOnly at hr
  rw [hr]

/-- What is taken before an append, said once. -/
theorem State.takeTogether_together : s.together (s.takeTogether busy) busy := by
  have h2 (l : List Instr) (u : State) (p : PortId) (hb : p ∉ busy) :
      (∃ n, State.takeFirst (p :: busy) l u = { u with choices := n })
      ∨ ∃ i rest t n, p.other ∉ busy ∧ l = i :: rest ∧ atRing p.other i ∧ u.takes t p.other i
          ∧ State.takeFirst (p :: busy) l u = { t with choices := n } := by
    cases l with
    | nil => exact .inl ⟨u.choices, rfl⟩
    | cons i rest =>
      unfold State.takeFirst
      split
      · exact .inl ⟨u.choices, rfl⟩
      · rename_i q t he
        split
        · exact .inl ⟨u.choices, rfl⟩
        · rename_i hq
          have hq' : q = p.other ∧ p.other ∉ busy := by
            obtain rfl | rfl := PortId.eq_or_other p q
            · simp at hq
            · simpa using hq
          obtain ⟨rfl, ho⟩ := hq'
          split
          · refine .inr ⟨i, rest, t, ?_⟩
            cases rest with
            | nil => exact ⟨_, ho, rfl, State.ringEvent_atRing he, State.ringEvent_takes he, rfl⟩
            | cons j rest =>
              unfold State.takeFirst
              split
              · exact ⟨_, ho, rfl, State.ringEvent_atRing he, State.ringEvent_takes he, rfl⟩
              · rename_i q t' he'
                rw [if_pos (by cases p <;> cases q <;> simp [PortId.other])]
                exact ⟨_, ho, rfl, State.ringEvent_atRing he, State.ringEvent_takes he, rfl⟩
          · exact .inl ⟨_, rfl⟩
  refine ⟨?_, ?_, ?_⟩
  · intro h
    refine s.takeTogether_alone busy ?_
    intro i rest q t hp he
    by_contra hq
    exact h q i rest (by simpa using hq) hp (State.ringEvent_atRing he)
  · unfold State.takeTogether
    cases hp : s.pending with
    | nil => exact .inl ⟨s.choices, rfl⟩
    | cons i rest =>
      unfold State.takeFirst
      split
      · exact .inl ⟨s.choices, rfl⟩
      · rename_i q t he
        split
        · exact .inl ⟨s.choices, rfl⟩
        · rename_i hq
          have hb : q ∉ busy := by simpa using hq
          split
          · refine .inr ⟨q, i, rest, t, hb, rfl, State.ringEvent_atRing he, State.ringEvent_takes he, ?_⟩
            obtain ⟨n, h⟩ | ⟨i', rest', t', n, ho, hr, ha, ht, h⟩ := h2 rest { t with choices := t.choices + 1 } q hb
            · exact .inl ⟨n, h⟩
            · exact .inr ⟨i', rest', t', _, n, ho, hr, ha, ht, h⟩
          · exact .inl ⟨_, rfl⟩
  · intro p rest hb hp hn
    refine ⟨s.onRequest p State.answerFlush, rfl, ?_⟩
    have he : s.ringEvent (.flush p) = some (p, s.onRequest p State.answerFlush) := rfl
    have hc := State.ringEvent_choices he
    unfold State.takeTogether
    rw [hp]
    unfold State.takeFirst
    simp only [he]
    rw [if_neg (by simpa using hb)]
    split
    · rw [hc]
      cases rest with
      | nil => rfl
      | cons j rest =>
        unfold State.takeFirst
        split
        · rfl
        · rename_i q t' he'
          rw [if_pos ?_]
          obtain rfl | rfl := PortId.eq_or_other p q
          · simp
          · exact absurd (State.ringEvent_atRing he') (hn _ _ rfl)
    · rfl

end Sys2Proof.Machine
end

