-- ==== Sys2Proof/Tests/Slice0.lean ====
section
/-!
SUPPORT. Tests of the model against the numbers of the spec's own examples and tables, and for every statement with hypotheses a
state and operands that meet them (the theorems named `witness_`).
-/

open Sys2Proof Sys2Proof.Machine

namespace Sys2Proof.Tests

/-! ## Helpers -/

/-- The state a command leaves. -/
def ran (i : Instr) (s : State) : State :=
  match exec i s with
  | .next t => t
  | .fault _ | .refused _ => s

/-- Both ports in a transaction that receives a request. -/
def recv (s : State) : State :=
  { s with
    port0 := { s.port0 with framing := .request 2000 {}, miso := some false }
    port1 := { s.port1 with framing := .request 2000 {}, miso := some false } }

/-- Right after reset, both ports receiving. -/
def start : State := recv State.reset

/-- Port 0 holds the part. -/
def held : State := { start with hold := { p0 := true, p1 := false } }

/-- The response port `p` is sending. -/
def replyOf (s : State) (p : PortId) : Option Reply :=
  match (s.port p).framing with
  | .response _ resp => some resp.reply
  | .idle | .request _ _ | .discarding => none

/-- The result code of the response port `p` is sending. -/
def resultOf (s : State) (p : PortId) : Option ResultCode := (replyOf s p).map Reply.result

/-- A response being sent on port 0. -/
def respOf (xfer : Xfer) (outBits : Nat) : Resp :=
  { reply := { result := .ok, fields := [.u8 2, .u16 0] }, format := .basic, order := .little, outBits := outBits, xfer := xfer }

/-- Port 0 sending that response. -/
def sending (s : State) (xfer : Xfer) (outBits : Nat) : State :=
  { s with port0 := { s.port0 with framing := .response 2000 (respOf xfer outBits) } }

/-- Values of a sample. -/
def vals : SampleVals :=
  { x := 14889, y := 8292, pressure := 4097, travel := 2048, tiltX := 513, tiltY := -400, tipAmp := 8800, colAmp := 4500
    colDx := 770, colDy := -600, flags := {} }

/-- S0 on K0 by its tip, with the windows of spec 05 section 5.8.1, past its ENTER. -/
def track : Track :=
  { kind := 0, toolEnd := .tip, endX := 37, endY := 20, colX := 39, colY := 18, miss := 0, contact := false
    buttons := .none, first := false, lastGood := some vals }

/-- SCANNING for port 0 with this frame and sweep; S0 tracks. -/
def scanning (frame : Option Frame) (sweep : Option Sweep) : State :=
  { start with
    engine := .scanning { start := 0, frame := frame, sweep := sweep }
    run := { p0 := true, p1 := false }, slot0 := .tracking track
    map := { valid := true, x := .none, y := .none } }

/-- A frame in a stage, gating ACTIVE. -/
def frameIn (stage : Stage) : Frame := { t := 1, gating := .active, stage := stage }

/-- A tracking reading. -/
def aRead : TrackRead := { slot := .s0, window := .colY, chan := 2, axis := .y, coil := 21 }

/-- A sensing pass at a coil, its 50 us over. -/
def passAt (a : Axis) (coil : Nat) : SensePass :=
  { axis := a, coil := coil, left := 0, prevBad := false, tooMany := false, failed := false }

/-- CHECKING at a coil. -/
def checkingAt (a : Axis) (coil : Nat) : State := { start with engine := .checking (passAt a coil) }

/-- A capture entry of port 0. -/
def heldEntry (stage : CapStage) (window : Option Window) (copied : Nat) : Held :=
  { stage := stage, owner := .p0, trigger := .sync, reach := some (4, 3), window := window, copied := copied, readPos := 0
    bank := 6 }

/-- A state whose entry 0 is this one. -/
def withEntry (s : State) (h : Held) : State := s.setEntry 0 (some h)

/-! ## Well-formedness (each check refuses an ill-formed term) -/

theorem test_wf_badCommand_named_code : (Instr.badCommand .p0 0x10).wellFormed = false := by decide
theorem test_wf_badCommand_other_code : (Instr.badCommand .p0 0x08).wellFormed = true := by decide
theorem test_wf_readingEnd_phase_of_silence : (Instr.readingEnd 0 5).wellFormed = false := by decide
theorem test_wf_readingEnd_silence : (Instr.readingEnd 0 0).wellFormed = true := by decide

/-! ## Request bytes (table 9.8.1; R159) -/

theorem test_bytes_read : decodeRequest .little .p1 0x02 [0x02] = some (.read .p1 2) := by decide
theorem test_bytes_configWrite_big :
    decodeRequest .big .p0 0x20 [0x03, 0x01, 0x91] = some (.configWrite .p0 3 401) := by decide
theorem test_bytes_configWrite_little :
    decodeRequest .little .p0 0x20 [0x03, 0x91, 0x01] = some (.configWrite .p0 3 401) := by decide
theorem test_bytes_capture :
    decodeRequest .big .p0 0x30 [0x03, 0x00, 0x00, 0x03, 0x2C, 0x02, 0x00, 0x00] = some (.capture .p0 3 812 512 0) := by decide
theorem test_bytes_curveKnot :
    decodeRequest .little .p0 0x23 [0x01, 0xFF, 0x0F, 0xFF, 0x1F] = some (.curveKnot .p0 1 4095 8191) := by decide
theorem test_bytes_ack : decodeRequest .little .p0 0x07 [0x10, 0x02] = some (.ack .p0 0x0210) := by decide
theorem test_bytes_hold : decodeRequest .little .p1 0x10 [] = some (.hold .p1) := by decide
theorem test_bytes_unknown : decodeRequest .little .p0 0x34 [] = some (.badCommand .p0 0x34) := by decide
theorem test_table_word_has_no_bits : decodeTableWord 8 1 = none := by decide

/-! ## The front end (spec 01 sections 1.3 to 1.5) -/

theorem test_frequency_F0 : Items.reset.frequency 0 = 300000 := by decide
theorem test_frequency_F7 : Items.reset.frequency 7 = 580000 := by decide

/-- Section 1.5.1: coil 38 takes 7400 and 1600. -/
theorem test_substitute_window :
    (substitute 34 [38] [⟨900, 1540⟩, ⟨2600, 1560⟩, ⟨5200, 1585⟩, ⟨9000, 1600⟩, ⟨31420, 310⟩, ⟨5801, 1612⟩, ⟨2900, 1630⟩])[4]?
      = some ⟨7400, 1600⟩ := by decide
/-- Section 1.5.1: the first coil of a window takes its one neighbour. -/
theorem test_substitute_edge : (substitute 38 [38] [⟨1, 2⟩, ⟨4100, 1612⟩])[0]? = some ⟨4100, 1612⟩ := by decide
theorem test_substitute_equal_neighbours :
    (substitute 11 [12] [⟨3000, 700⟩, ⟨1, 1⟩, ⟨3000, 900⟩])[1]? = some ⟨3000, 700⟩ := by decide

/-- R10: levels up to 63 are OPEN, from 961 on SHORT. -/
theorem test_classify_bounds :
    classify 63 = some .openLoop ∧ classify 64 = none ∧ classify 960 = none ∧ classify 961 = some .shortLoop := by decide
theorem test_coilSensingEnd_open :
    (ran (.coilSensingEnd 63) (checkingAt .x 3)).map.x = ⟨[⟨3, .openLoop⟩], 0⟩ := by decide
theorem test_coilSensingEnd_last :
    (ran (.coilSensingEnd 500) (checkingAt .y 99)).engine = .idle
    ∧ (ran (.coilSensingEnd 500) (checkingAt .y 99)).map.valid = true := by decide

/-! ## The solver (spec 05 section 5.8) -/

/-- Section 5.8.1. -/
theorem test_solver_ordinary_frame :
    let r (l : List Nat) (p : Nat) : List Reading := l.map fun a => ⟨a, p⟩
    let sm := solve Items.reset [⟨0, 0⟩, ⟨4095, 8191⟩] Kind.reset0
      { first := 34, coils := 176, listed := [38], readings := r [900, 2600, 5200, 9000, 31420, 5801, 2900] 1600 }
      { first := 17, coils := 100, listed := [], readings := r [1200, 2900, 6100, 8800, 3900, 1500, 600] 0 }
      { first := 36, coils := 176, listed := [38], readings := r [400, 1800, 9999, 4500, 3700, 1500, 300] 1300 }
      { first := 15, coils := 100, listed := [], readings := r [300, 900, 2050, 5000, 4500, 1200, 200] 0 }
    sm = { vals := { vals with flags := { defect := true } }
           endXPeak := 37, endYPeak := 20, colXPeak := 39, colYPeak := 18, colPhase := 1300 } := by
  decide +kernel

/-- Section 5.8.2. -/
theorem test_tilt_saturated :
    tilt Kind.reset0 4500 1800 900
      = { x := 895, y := 447, dx := 1800, dy := 900, saturated := true, absent := false } := by decide +kernel
theorem test_tip_correction : tipCorrection 895 Kind.reset0 = 336 ∧ tipCorrection 447 Kind.reset0 = 168 := by decide

/-- Sections 5.8.5 and 5.8.6. -/
theorem test_vertex_offsets :
    vertexOffset 400 3000 8000 8000 = 200 ∧ vertexOffset 400 8000 8000 8000 = 0
    ∧ vertexOffset 400 1002 1017 1000 = -13 ∧ vertexOffset 400 1000 1017 1002 = 13 := by decide

/-- R84, R87, R89: the linear curve, and the clamp at zero plus span. -/
theorem test_pressure_linear :
    pressureOf [⟨0, 0⟩, ⟨4095, 8191⟩] 2048 = 4097 ∧ pressureOf [⟨0, 0⟩, ⟨4095, 8191⟩] 4095 = 8191 := by decide
theorem test_travel_at_span : rawTravel 2800 Kind.reset0 = 4096 ∧ rawTravel 400 Kind.reset0 = 0 := by decide

/-! ## Slots and frames -/

/-- R62: the windows of section 4.3. -/
theorem test_windows :
    windowFirst 176 40 = 37 ∧ windowFirst 176 2 = 0 ∧ windowFirst 176 174 = 169 ∧ windowFirst 176 175 = 169 := by decide

/-- R52: the budgets of the default items. -/
theorem test_budget : searchBudget Items.reset 0 = 245 ∧ searchBudget Items.reset 1 = 217 := by decide

/-- Section 4.7.1: K0 keeps its tip, and the strengths decide the slots. -/
theorem test_sweep_example :
    let k1 : Kind := { Kind.reset0 with tip := 3, eraser := some 5, collar := 4 }
    let items : Items := { Items.reset with kinds := Items.reset.kinds.set 1 k1 }
    let got (c : Chan) (ax x ay y : Nat) : List SweepReading :=
      [⟨c, .x, 0, ⟨ax, 0⟩⟩, ⟨c, .y, 0, ⟨ay, 0⟩⟩] ++ List.replicate x ⟨c, .x, 0, ⟨0, 0⟩⟩ ++ List.replicate y ⟨c, .y, 0, ⟨0, 0⟩⟩
    let sw : Sweep :=
      { list := [0, 1, 3, 5], cursor := { index := 3, axis := .y, coil := 99 }
        got := got 0 6200 1 5100 1 ++ got 1 2500 1 2600 1 ++ got 3 3100 1 9000 1 ++ got 5 1800 1 1700 1 }
    let t := ({ start with items := items } : State).evaluateSweep sw
    t.slot0.tracks 0 = true ∧ t.slot1.tracks 1 = true := by decide +kernel

theorem test_frameStart :
    let first : TrackRead := { slot := .s0, window := .endX, chan := 0, axis := .x, coil := 34 }
    let stage : Stage := .tracking first ((scanning none none).trackPlan.drop 1) [] (.reading 20)
    (ran .frameStart { scanning none none with counter := 5000 }).engine
      = .scanning { start := 5000, frame := some { t := 1, gating := .suspended, stage := stage }, sweep := none } := by
  decide +kernel
theorem test_guardExpiry_begins_sweep :
    (ran .guardExpiry { scanning (some (frameIn (.guarding 0))) none with slot0 := .free }).engine.sweep
      = some { list := [0, 1], cursor := { index := 0, axis := .x, coil := 0 }, got := [] } := by decide
theorem test_quietTimerExpiry :
    (ran .quietTimerExpiry { scanning (some (frameIn (.searching 5 (.waiting 0)))) none with counter := 500 }).port0.latched.quiet
      = true := by decide
theorem test_quietRise_begins :
    (ran .quietRise (scanning (some (frameIn (.searching 5 (.waiting 0)))) none)).engine
      = .scanning { start := 0, frame := some (frameIn (.searching 5 (.reading 20))), sweep := none } := by decide
theorem test_quietFall : (ran .quietFall { start with quiet := true }).quiet = false := by decide
theorem test_readingEnd_next :
    (ran (.readingEnd 900 1540)
        { scanning (some (frameIn (.tracking aRead [aRead] [] (.reading 0)))) none with quiet := true }).engine
      = .scanning
          { start := 0, frame := some (frameIn (.tracking aRead [] [(aRead, ⟨900, 1540⟩)] (.reading 20))), sweep := none } := by
  decide

/-! ## The engine -/

theorem test_hold_from_scanning :
    let t := ran (.hold .p1) (scanning none none)
    t.engine = .halted ∧ t.run.p0 = true ∧ t.ring.w = 2 ∧ t.slot0 = .free := by decide +kernel
theorem test_hold_aborts_check :
    (ran (.hold .p0) (checkingAt .x 3)).report.outcome = .aborted := by decide
theorem test_release_begins_check :
    (ran (.release .p0) held).engine = .checking (SensePass.start) := by decide +kernel
theorem test_release_not_holding : resultOf (ran (.release .p1) held) .p1 = some .notHolding := by decide
theorem test_run_from_idle : (ran (.run .p0) { start with engine := .idle }).engine.isScanning = true := by decide
theorem test_stop_last_writes_break :
    let t := ran (.stop .p0) (scanning none none)
    t.engine = .idle ∧ (Store.read t.store 1).map Record.body = some (.brk .stopped) := by decide +kernel

/-! ## Configuration and curves -/

/-- R1: 401 is stored as 400, and 999 as 998, each with CLAMPED. -/
theorem test_configWrite_pitch :
    (ran (.configWrite .p0 0x03 401) held).items.pitch = 400
    ∧ resultOf (ran (.configWrite .p0 0x03 999) held) .p0 = some .clamped := by decide +kernel
theorem test_configWrite_ring_fitted :
    (ran (.configWrite .p0 0x30 4) held).items.ringBanks = 4 := by decide +kernel
theorem test_configRead_K0_spacing :
    replyOf (ran (.configRead .p1 0x44) start) .p1
      = some { result := .ok, fields := [.u8 0x44, .u16 1500] } := by decide
theorem test_configRead_bad_item :
    replyOf (ran (.configRead .p0 0x7A) start) .p0 = some { result := .badItem, fields := [.u8 0, .u16 0] } := by decide
theorem test_curveBegin_clamps :
    (ran (.curveBegin .p0 1 40) held).curves[1] = .loading 16 [] (some .p0) := by decide +kernel
theorem test_curveKnot_not_owner :
    resultOf (ran (.curveKnot .p1 1 0 0) { held with curves := held.curves.set 1 (.loading 2 [] (some .p0)) }) .p1
      = some .notOwner := by decide +kernel
theorem test_curveKnot_outside_halted :
    replyOf (ran (.curveKnot .p0 0 0 0) { start with engine := .idle }) .p0
      = some { result := .refusedState, fields := [.u8 2, .u8 2] } := by decide +kernel
theorem test_curveRead_linear :
    replyOf (ran (.curveRead .p0 0) start) .p0
      = some { result := .ok, fields := [.u8 2, .u8 2, .u8 2, .u8 0, .u16 0, .u16 0, .u16 4095, .u16 8191] } := by decide +kernel
theorem test_checkReport_none :
    replyOf (ran (.checkReport .p0) start) .p0 = some { result := .ok, fields := [.u8 0, .u8 0, .u8 0] } := by decide

/-! ## Ring, cursors and captures -/

/-- R105: the count across the wrap. -/
theorem test_count_across_wrap :
    ({ start with ring := { w := 0, o := 4294967000, writePos := 0 } } : State).count = 296 := by decide

/-- The state after one BREAK at time 7. -/
def one : State := start.append 7 (.brk .stopped)

/-- The record that BREAK is. -/
def brk0 : Record := { seq := 0, tile := 0, time := 7, body := .brk .stopped }

theorem test_read_one :
    replyOf (ran (.read .p0 65) one) .p0 = some { result := .clamped, fields := [.u8 1, .u16 0] } := by decide +kernel
theorem test_read_latest :
    replyOf (ran (.read .p0 3) { one with port0 := { one.port0 with cursor := { one.port0.cursor with mode := .latest } } }) .p0
      = some { result := .ok, fields := [.u8 1, .u16 0], records := [brk0] } := by decide +kernel
theorem test_readRecordComplete_advances :
    (ran (.readRecordComplete .p0) (sending one (.read 1 0 (some (.stroke brk0))) 32)).port0.cursor.next = 1 := by decide +kernel
/-- R117: a lap during the sending of a record is not followed by an advance. -/
theorem test_readRecordComplete_after_lap :
    let s := sending { start with ring := { w := 1, o := 0xFFFFF401, writePos := 0 }, port0 := { start.port0 with
      cursor := { start.port0.cursor with next := 0xFFFFF401 } } } (.read 1 0 (some (.stroke { brk0 with seq := 0xFFFFF401 }))) 32
    (ran (.readRecordComplete .p0) (s.append 9 (.brk .halted))).port0.cursor.next = 0xFFFFF402 := by decide +kernel
theorem test_readPlaceBegin_void :
    (ran (.readPlaceBegin .p0) (sending start (.read 1 0 none) 32)).port0.framing
      = .response 2000 (respOf (.read 1 0 (some (.void 0))) 32) := by decide +kernel
theorem test_mark : (ran (.mark .p0) one).port0.cursor.mark = some 0 := by decide
theorem test_rewind_no_mark : resultOf (ran (.rewind .p0) one) .p0 = some .noMark := by decide
theorem test_cursorSetup_clamps :
    replyOf (ran (.cursorSetup .p0 0 0 4000) start) .p0
      = some { result := .clamped, fields := [.u8 0, .u16 1, .u16 3071] } := by decide +kernel
theorem test_flush : (ran (.flush .p1) one).ring.o = 1 ∧ (ran (.flush .p1) one).port0.cursor.next = 1 := by decide +kernel
theorem test_capture_sync_drives :
    (ran (.capture .p0 1 4 3 1) start).pulse = some 4
    ∧ replyOf (ran (.capture .p0 1 4 3 1) start) .p0
        = some { result := .ok, fields := [.u8 0, .u8 1, .u32 0, .u16 0] } := by decide +kernel
theorem test_capture_empty_window_ready :
    replyOf (ran (.capture .p0 0 4 0 0) start) .p0
      = some { result := .ok, fields := [.u8 0, .u8 3, .u32 0, .u16 0] } := by decide +kernel
theorem test_captureCopy :
    let t := ran (.captureCopy 0) (withEntry one (heldEntry .filling (some ⟨0, 1, false⟩) 0))
    Store.read t.store 3072 = some brk0 ∧ (t.entry 0).map Held.stage = some .ready := by decide +kernel
theorem test_captureRead_not_ready :
    resultOf (ran (.captureRead .p0 0 1 0) (withEntry start (heldEntry .armed none 0))) .p0 = some .notReady := by decide
theorem test_captureRelease_not_owner :
    resultOf (ran (.captureRelease .p1 0) (withEntry start (heldEntry .armed none 0))) .p1 = some .notOwner := by decide
theorem test_captureRelease_empty : resultOf (ran (.captureRelease .p0 0) start) .p0 = some .notOwner := by decide
theorem test_captureStatus_bytes :
    (replyOf (ran (.captureStatus .p0) start) .p0).map (fun r => (r.bytes .basic .little).length) = some 65 := by decide +kernel
theorem test_tsyncFall_fills :
    ((ran .tsyncFall (withEntry one (heldEntry .armed none 0))).entry 0).bind Held.window
      = some { start := 0, target := 4, truncated := true } := by decide +kernel
theorem test_tsyncPulseExpiry : (ran .tsyncPulseExpiry { start with pulse := some 0 }).pulse = none := by decide

/-! ## Ports and attention -/

theorem test_status_capacity :
    (replyOf (ran (.status .p0) start) .p0).map (fun r => r.fields[6]?) = some (some (.u16 3072)) := by decide +kernel
theorem test_portSetup :
    (ran (.portSetup .p0 2 1 5 0xFFFF) start).port0.lapseTimer = some 50000 := by decide +kernel
theorem test_ack_level_stays :
    replyOf (ran (.ack .p0 0xFFFF) one) .p0 = some { result := .ok, fields := [.u16 1] } := by decide +kernel
theorem test_portReset_tells_peer :
    (ran (.portReset .p0) one).port1.latched.peer = true ∧ (ran (.portReset .p0) one).port0.cursor.next = 1 := by decide +kernel
theorem test_badCommand : replyOf (ran (.badCommand .p0 0x34) start) .p0 = some { result := .badCommand, fields := [] } := by decide
theorem test_csFall : (ran (.csFall .p0) State.reset).port0.framing = .request 2000 {} := by decide
theorem test_csRise : (ran (.csRise .p0) start).port0.framing = .idle := by decide
theorem test_lapse_of_holder :
    let t := ran (.lapseTimerExpiry .p0) { held with port0 := { held.port0 with lapseTimer := some 0 } }
    t.hold.p0 = false ∧ t.port0.latched.lapse = true ∧ t.engine = .checking SensePass.start := by decide +kernel
theorem test_sclkEdge_last_bit_of_status :
    let s := { start with port0 := { start.port0 with framing := .request 2000 { bytes := [], nbits := 7, acc := 0 } } }
    resultOf (ran (.sclkEdge .p0 .rise true) s) .p0 = some .ok := by decide +kernel
theorem test_sclkEdge_shifts_out :
    (ran (.sclkEdge .p0 .fall false) (sending start .none 14)).port0.miso = some true := by decide +kernel
theorem test_tick_wraps :
    (ran .timestampCounterTick { start with counter := 0xFFFFFFFF }).counter = 0 := by decide
theorem test_fullReset_straps : (ran (.fullReset true false true false false) one).tile = 2 := by decide
theorem test_step_takes_front :
    (match step { State.reset with pending := [.quietFall, .frameStart] } with
      | .next t => t.pending
      | .fault _ | .refused _ => []) = [.frameStart] := by decide

/-- The bytes of a BREAK and of a VOID filler (table 9.8.2). -/
theorem test_place_bytes :
    ((Place.stroke brk0).bytes .timed .little).length = 28
    ∧ (Place.void 0x01020304).bytes .basic .big = [1, 2, 3, 4] ++ List.replicate 20 0 := by decide +kernel

/-! ## Witnesses: states that meet the premises of the statements -/

/-- A full ring of one bank whose records carry sequences 0 to 511. Port 0 reads SEQUENTIAL at O, port 1 LATEST at the newest
record, and E0 waits for the record of sequence W. -/
@[irreducible] def fullStore : Store := (List.range 512).map fun j => (j, { seq := BitVec.ofNat 32 j, tile := 0, time := 0, body := .brk .stopped })

/-- See `fullStore`. -/
def waiting : Held :=
  { stage := .filling, owner := .p0, trigger := .absolute, reach := none, window := some ⟨512, 1, false⟩, copied := 0
    readPos := 0, bank := 6 }

/-- See `fullStore`. -/
def full : State :=
  { start with
    items := { Items.reset with ringBanks := 1 }
    ring := { w := 512, o := 0, writePos := 0 }
    store := fullStore
    entries := #v[some waiting, none, none, none]
    port1 := { start.port1 with cursor := { start.port1.cursor with next := 511, mode := .latest } } }

theorem read_map_range {α : Type} (f : α → Nat) (g : α → Record) (l : List α) (hl : (l.map f).Nodup) (a : α) (ha : a ∈ l) :
    Store.read (l.map fun x => (f x, g x)) (f a) = some (g a) := by
  induction l with
  | nil => simp at ha
  | cons x rest ih =>
    simp only [List.map_cons, List.nodup_cons, List.mem_map, not_exists, not_and] at hl
    simp only [List.map_cons, Store.read]
    rcases List.mem_cons.mp ha with rfl | hr
    · simp
    · rw [if_neg (fun he => hl.1 a hr he.symm), ih hl.2 hr]

theorem items_lawful (b : Nat) (hb : b = 1 ∨ b = 6) : ({ Items.reset with ringBanks := b } : Items).lawful := by
  rcases hb with rfl | rfl <;> refine ⟨?_, by decide, by decide⟩ <;> intro i <;>
  cases i with
  | chanM i => revert i; decide
  | chanN i => revert i; decide
  | kind k f => revert k; cases f <;> decide
  | _ => decide

theorem witness_start_historyLaw : start.historyLaw := by
  refine ⟨items_lawful 6 (.inr rfl), by decide, ⟨by decide, by decide, ?_⟩, ⟨by decide, by decide, by decide, by decide, by decide⟩,
    ⟨by decide, by decide, by decide, by decide, by decide⟩, ⟨?_, ?_⟩, trivial, trivial⟩
  · intro j hj
    exact absurd hj (by have : start.count = 0 := by decide
                        omega)
  · intro e h he
    have hn : ∀ e : Fin 4, start.entry e = none := by decide
    simp [hn] at he
  · intro e e' h h' he
    have hn : ∀ e : Fin 4, start.entry e = none := by decide
    simp [hn] at he

theorem witness_full_historyLaw : full.historyLaw := by
  refine ⟨items_lawful 1 (.inl rfl), ?_, ⟨by decide, by decide, ?_⟩, ⟨by decide, by decide, by decide, by decide, by decide⟩,
    ⟨by decide, by decide, by decide, by decide, by decide⟩, ⟨?_, ?_⟩, trivial, trivial⟩
  · have : fullStore.map Prod.fst = List.range 512 := by
      unfold fullStore
      rw [List.map_map]
      exact List.map_id _
    rw [Store.wf, show full.store = fullStore from rfl, this]
    exact List.pairwise_lt_range
  · intro j hj
    have hc : full.count = 512 := by decide
    have hcap : full.capacity = 512 := by decide
    rw [hc] at hj
    have hd : seqDist full.ring.o (full.ring.o + BitVec.ofNat 32 j) = j := by
      show (full.ring.o + BitVec.ofNat 32 j - full.ring.o).toNat = j
      rw [show full.ring.o = 0#32 from rfl]
      simp
      omega
    have hw : seqDist (full.ring.o + BitVec.ofNat 32 j) full.ring.w = 512 - j := by
      show (full.ring.w - (full.ring.o + BitVec.ofNat 32 j)).toNat = 512 - j
      rw [show full.ring.o = 0#32 from rfl, show full.ring.w = 512#32 from rfl]
      simp [BitVec.toNat_sub]
      omega
    have hslot : full.ringSlot (full.ring.o + BitVec.ofNat 32 j) = j := by
      simp only [State.ringSlot, hcap, hw]
      rw [show full.ring.writePos = 0 from rfl]
      omega
    have hread : Store.read fullStore j
        = some { seq := BitVec.ofNat 32 j, tile := 0, time := 0, body := .brk .stopped } := by
      unfold fullStore
      exact read_map_range id _ (List.range 512) (by simpa using List.nodup_range) j (by simpa using hj)
    have haddr : full.ringAddr j = j := by
      show bankAddr 0 j = j
      simp [bankAddr]
    unfold State.ringRead
    rw [if_pos (by simp [State.holds, hd, hc, hj]), hslot, haddr]
    rw [show full.store = fullStore from rfl, hread, show full.ring.o = 0#32 from rfl]
    simp
  · intro e h he
    have hz : ∀ e : Fin 4, full.entry e = if e = 0 then some waiting else none := by decide
    rw [hz] at he
    split at he
    · cases he
      exact ⟨by decide, ⟨by decide, by decide, by decide, fun j hj => absurd hj (by simp [waiting])⟩,
        ⟨_, rfl, by decide, rfl⟩, fun r hr => by cases hr⟩
    · cases he
  · intro e e' h h' he he' _
    have hz : ∀ e : Fin 4, full.entry e = if e = 0 then some waiting else none := by decide
    rw [hz] at he he'
    split at he
    · split at he'
      · simp_all
      · cases he'
    · cases he

/-! ### The block and its ports -/

theorem witness_StepTakesFrontCommand :
    ({ State.reset with pending := [.frameStart] } : State).pending = .frameStart :: [] ∧ State.reset.pending = [] := by decide

theorem witness_RequestTakenInTransaction :
    (Instr.hold .p0).wellFormed = true ∧ (Instr.hold .p0).requestPort = some .p0
    ∧ State.reset.receiving .p0 = false ∧ start.receiving .p0 = true
    ∧ (start.port .p1).framing = .request 2000 {} := by decide

theorem witness_RefusedRequestChangesNothing :
    (Instr.rewind .p0).requestPort = some .p0 ∧ start.receiving .p0 = true
    ∧ ∃ resp, exec (.rewind .p0) start = .next (ran (.rewind .p0) start)
        ∧ ((ran (.rewind .p0) start).port .p0).framing = .response 2000 resp ∧ resp.reply.result.accepts = false :=
  ⟨rfl, rfl, _, rfl, rfl, rfl⟩

theorem witness_RequestBytesRoundTrip :
    (Instr.badCommand .p1 0x34).wellFormed = true ∧ (Instr.badCommand .p1 0x34).requestPort = some .p1 := by decide

theorem witness_RequestClockedIn :
    (start.port .p0).framing = .request 2000 {} ∧ (Instr.ack .p0 4).wellFormed = true
    ∧ (Instr.ack .p0 4).requestPort = some .p0
    ∧ encodeRequest (start.port .p0).settings.order (.ack .p0 4) = some [7, 4, 0] := by decide

theorem witness_TransactionFraming :
    (State.reset.port .p0).framing = .idle
    ∧ (({ start with port0 := { start.port0 with framing := .request 0 {} } } : State).port .p0).framing = .request 0 {}
    ∧ (({ start with port0 := { start.port0 with framing := .discarding } } : State).port .p0).framing = .discarding := by decide

theorem witness_ResponseClockedOut :
    let void : Place := .void 0
    (respOf .none 0).xfer = .none
    ∧ ((respOf (.read 1 0 none) 32).xfer = .read 1 0 none ∧ 0 < 1 ∧ (respOf (.read 1 0 none) 32).outBits = 8 * (4 + 0 * 24))
    ∧ ((respOf (.read 1 0 (some void)) 224).xfer = .read 1 0 (some void)
      ∧ (respOf (.read 1 0 (some void)) 224).outBits = 8 * (4 + (0 + 1) * 24))
    ∧ ((respOf (.capture 0 true 0 1 0 none) 32).outBits = 8 * (4 + 0 * 24) ∧ 0 < 1)
    ∧ (respOf (.capture 0 true 0 1 0 (some void)) 224).outBits = 8 * (4 + (0 + 1) * 24)
    ∧ ((sending start .none 0).port .p0).framing = .response 2000 (respOf .none 0)
    ∧ (let fixed := (respOf (.read 1 0 none) 31).reply.bytes .basic .little
       fixed[31 / 8]? = some 0 ∧ fixed.length = 4 ∧ 31 ≠ 8 * (4 + 0 * 24) ∧ fixed.length ≤ 32 / 8 ∧ 4 + 0 * 24 ≤ 223 / 8
       ∧ 223 ≠ 8 * (4 + (0 + 1) * 24))
    ∧ (¬ (1 < 1) ∧ 4 ≤ 224 / 8) := by decide

theorem witness_ReportsChangeNothing :
    start.receiving .p0 = true ∧ (3 : Byte).toNat = (3 : Fin 4).val ∧ 4 ≤ (4 : Byte).toNat ∧ ¬ (0x34 : Byte) ∈ commandCodes := by
  decide

theorem witness_ConfigReadAnswersStored :
    start.receiving .p1 = true ∧ Item.ofId 0x79 = some (.kind 3 .collarMin) ∧ Item.ofId 0x7A = none ∧ Item.ofId 0 = none
    ∧ ⟨0x79, .numeric 0 65535, 300⟩ ∈ start.items.table ∧ (∀ row ∈ start.items.table, row.id ≠ 0x7A) := by
  decide +kernel

theorem witness_SetupsStoreSettings :
    start.receiving .p0 = true ∧ (1 : Byte).toNat = (match CursorMode.latest with | .sequential => 0 | .latest => 1)
    ∧ 2 ≤ (2 : Byte).toNat ∧ (2 : Byte).toNat = (match Format.full with | .basic => 0 | .timed => 1 | .full => 2)
    ∧ (1 : Byte).toNat = (match ByteOrder.big with | .little => 0 | .big => 1) ∧ 3 ≤ (3 : Byte).toNat := by decide

theorem witness_AckRemovesNamed : start.receiving .p0 = true := by decide

/-! ### Cursors and the ring -/

theorem witness_SequentialReadHeader : full.receiving .p0 = true ∧ (full.port .p0).cursor.mode = .sequential := by decide

theorem witness_SequentialReadPlaces :
    let r := respOf (.read 64 63 none) 0
    ((sending one (.read 64 63 none) 0).port .p0).framing = .response 2000 r ∧ r.xfer = .read 64 63 none ∧ 63 < 64
    ∧ (respOf (.read 1 0 (some (.stroke brk0))) 0).xfer = .read 1 0 (some (.stroke brk0))
    ∧ (respOf (.read 1 0 (some (.void 5))) 0).xfer = .read 1 0 (some (.void 5)) := by decide

theorem witness_LatestReadPicksNewest :
    full.historyLaw ∧ full.receiving .p1 = true ∧ (full.port .p1).cursor.mode = .latest :=
  ⟨witness_full_historyLaw, by decide, by decide⟩

theorem witness_MarkAndRewind :
    let c : Cursor := full.port0.cursor
    full.receiving .p0 = true ∧ c.mark = none
    ∧ (let m : Seq := 0
       seqDist m full.ring.w ≤ seqDist full.ring.o full.ring.w)
    ∧ (let m : Seq := 0xFFFFFFFF
       seqDist full.ring.o full.ring.w < seqDist m full.ring.w)
    ∧ ({ c with mark := some 0 } : Cursor).mark = some 0 := by decide

theorem witness_FlushEmptiesRing : full.receiving .p0 = true ∧ full.ring.writePos < full.capacity := by decide

theorem witness_AppendKeepsHistory :
    full.historyLaw ∧ full.count = full.capacity ∧ full.holds full.ring.o = true ∧ full.holds 511 = true
    ∧ start.historyLaw ∧ start.count < start.capacity :=
  ⟨witness_full_historyLaw, by decide, by decide, by decide, witness_start_historyLaw, by decide⟩

theorem witness_OverwriteLapsAndOvertakes :
    full.count = full.capacity ∧ (full.port .p0).cursor.next = full.ring.o ∧ (full.port .p0).cursor.mode = .sequential
    ∧ (full.port .p1).cursor.next ≠ full.ring.o
    ∧ (({ full with port1 := { full.port1 with cursor := { full.port1.cursor with next := 0 } } } : State).port .p1).cursor.next
        = full.ring.o
    ∧ (let h := heldEntry .filling (some ⟨0xFFFFFFFF, 3, false⟩) 1
       (withEntry full h).entry 0 = some h ∧ h.stage = .filling
       ∧ (0xFFFFFFFF : Seq) + BitVec.ofNat 32 h.copied = full.ring.o)
    ∧ (full.entry 0 = some waiting ∧ (512 : Seq) + BitVec.ofNat 32 waiting.copied ≠ full.ring.o) := by decide

/-! ### Captures -/

theorem witness_CaptureRequest :
    start.receiving .p0 = true ∧ ¬ ((4 : Byte).toNat ≤ 3) ∧ ¬ ((2 : Byte).toNat ≤ 1)
    ∧ ¬ (1 ≤ (0 : Word).toNat + (0 : Half).toNat) ∧ ¬ ((512 : Word).toNat ≤ 511) ∧ (511 : Word).toNat + (1 : Half).toNat ≤ 512
    ∧ ¬ (1 ≤ (0 : Half).toNat) ∧ ¬ ((513 : Half).toNat ≤ 512)
    ∧ ¬ (seqDist full.ring.o 513 ≤ full.capacity ∧ seqDist 513 full.ring.w ≤ full.capacity)
    ∧ (seqDist full.ring.o 512 ≤ full.capacity ∧ seqDist 512 full.ring.w ≤ full.capacity)
    ∧ (start.entry 0 = none ∧ start.freeBank = some 6)
    ∧ ({ start with items := { Items.reset with ringBanks := 8 } } : State).freeBank = none := by decide

theorem witness_ImmediateCaptureWindow :
    full.historyLaw ∧ full.receiving .p0 = true ∧ full.freeEntry = some 1 ∧ full.freeBank = some 1
    ∧ ¬ (seqDist full.ring.o full.ring.w < (511 : Word).toNat)
    ∧ start.historyLaw ∧ start.freeEntry = some 0 ∧ start.freeBank = some 6
    ∧ seqDist start.ring.o start.ring.w < (1 : Word).toNat
    ∧ min (1 : Word).toNat (seqDist start.ring.o start.ring.w) + (0 : Half).toNat = 0 :=
  ⟨witness_full_historyLaw, by decide, by decide, by decide, by decide, witness_start_historyLaw, by decide, by decide,
    by decide, by decide⟩

theorem witness_TsyncTriggersArmed :
    let h := heldEntry .armed none 0
    (withEntry full h).entry 0 = some h ∧ h.stage = .armed ∧ h.trigger = .sync ∧ h.reach = some (4, 3)
    ∧ (full.entry 0 = some waiting ∧ waiting.stage ≠ .armed) ∧ full.entry 1 = none
    ∧ ({ full with pulse := some 0 } : State).pulse = some 0 ∧ full.pulse ≠ some 0 := by decide

theorem witness_CaptureCopyFillsBank :
    full.historyLaw ∧ full.entry 0 = some waiting ∧ waiting.stage = .filling ∧ waiting.window = some ⟨512, 1, false⟩
    ∧ (512 : Seq) + BitVec.ofNat 32 waiting.copied = full.ring.w
    ∧ one.ringRead 0 = some brk0
    ∧ full.ringRead 0xFFFFFFFF = none ∧ seqDist 0xFFFFFFFF full.ring.o ≤ full.capacity ∧ (0xFFFFFFFF : Seq) ≠ full.ring.o :=
  ⟨witness_full_historyLaw, by decide, by decide, by decide, by decide, by decide +kernel, by decide, by decide, by decide⟩

theorem witness_CaptureReadSendsBank :
    let h := heldEntry .ready (some ⟨0, 4, false⟩) 4
    let s := withEntry (sending one (.capture 0 true 0 4 0 none) 0) { h with bank := 0 }
    ((withEntry start h).receiving .p0 = true ∧ (0 : Byte).toNat = (0 : Fin 4).val ∧ (1 : Byte).toNat ≤ 1
      ∧ (withEntry start h).entry 0 = some h ∧ h.owner = .p0 ∧ h.stage = .ready ∧ h.window = some ⟨0, 4, false⟩)
    ∧ (4 ≤ (4 : Byte).toNat ∧ 2 ≤ (2 : Byte).toNat ∧ start.entry 0 = none ∧ h.owner = PortId.other .p1
      ∧ full.entry 0 = some waiting ∧ waiting.owner = .p0 ∧ waiting.stage ≠ .ready)
    ∧ (s.entry 0 = some { h with bank := 0 } ∧ Store.read s.store (512 * 0 + h.readPos) = some brk0 ∧ 0 < 4)
    ∧ (s.port .p0).framing = .response 2000 (respOf (.capture 0 true 0 4 0 none) 0)
    ∧ (respOf (.capture 0 false 7 4 3 none) 0).xfer = .capture 0 false 7 4 3 none
    ∧ (respOf (.capture 0 true 7 4 3 (some (.void 7))) 0).xfer = .capture 0 true 7 4 3 (some (.void 7)) := by decide +kernel

theorem witness_CaptureReleaseEmptiesEntry :
    full.receiving .p0 = true ∧ full.receiving .p1 = true ∧ (0 : Byte).toNat = (0 : Fin 4).val ∧ full.entry 0 = some waiting
    ∧ waiting.owner = .p0 ∧ waiting.owner = PortId.other .p1 ∧ 4 ≤ (4 : Byte).toNat
    ∧ (1 : Byte).toNat = (1 : Fin 4).val ∧ full.entry 1 = none := by decide

/-! ### Claims, engine and check -/

theorem witness_LapseTakesClaims :
    let s : State := { held with port0 := { held.port0 with lapseTimer := some 0 } }
    let t : State := { start with port0 := { start.port0 with lapseTimer := some 0 } }
    let r : State :=
      { scanning none none with port0 := { start.port0 with lapseTimer := some 0 } }
    (s.port .p0).lapseTimer = some 0 ∧ s.engaged .p0 = true ∧ (t.port .p0).lapseTimer = some 0 ∧ t.engaged .p0 = false
    ∧ (s.engine = .halted ∧ s.hold.has .p0 = true ∧ (s.hold.erase .p0).isEmpty = true)
    ∧ ((r.port .p0).lapseTimer = some 0 ∧ r.engaged .p0 = true
      ∧ r.engine = .scanning { start := 0, frame := none, sweep := none } ∧ r.run.has .p0 = true
      ∧ (r.run.erase .p0).isEmpty = true ∧ r.ring.writePos < r.capacity) := by
  decide

theorem witness_PortResetReturnsPort : full.receiving .p0 = true ∧ (scanning none none).receiving .p0 = true := by decide

theorem witness_HoldTakesEffect :
    start.receiving .p0 = true ∧ start.engine = .halted
    ∧ ({ start with engine := .idle } : State).engine = .idle
    ∧ (checkingAt .x 0).engine = .checking (passAt .x 0) ∧ (checkingAt .x 0).receiving .p0 = true
    ∧ (scanning none none).engine = .scanning { start := 0, frame := none, sweep := none }
    ∧ (scanning none none).receiving .p0 = true ∧ (scanning none none).ring.writePos < (scanning none none).capacity := by
  decide

theorem witness_StopLeavesRunSet :
    start.receiving .p0 = true ∧ start.engine.isScanning = false
    ∧ ((scanning none none).run.erase .p1).isEmpty = false
    ∧ ((scanning none none).engine = .scanning { start := 0, frame := none, sweep := none }
      ∧ ((scanning none none).run.erase .p0).isEmpty = true
      ∧ (scanning none none).ring.writePos < (scanning none none).capacity)
    ∧ ((scanning none none).slot0.closingRecord .s0).isSome = true := by decide

theorem witness_RunJoinsRunSet :
    start.receiving .p0 = true ∧ start.engine ≠ .idle
    ∧ (let s : State := { start with engine := .idle }
       s.engine = .idle ∧ s.slot0 = .free ∧ s.slot1 = .free) := by decide

/-- A VALID map with two adjacent coils, in mode REUSE. -/
def reuse (x : List Defect) : State :=
  { held with
    items := { Items.reset with checkMode := .reuse }
    map := { valid := true, x := ⟨x, 0⟩, y := ⟨[], 0⟩ } }

theorem witness_ReleaseStartsCheck :
    let derived (x : List Defect) : List Finding := (reuse x).map.x.derivation .x 2 ++ (reuse x).map.y.derivation .y 2
    held.receiving .p0 = true ∧ held.hold.has .p1 = false
    ∧ (({ held with hold := { p0 := true, p1 := true } } : State).hold.erase .p0).isEmpty = false
    ∧ (held.hold.has .p0 = true ∧ (held.hold.erase .p0).isEmpty = true)
    ∧ configFindings { Items.reset with framePeriod := 1219 } held.curves ≠ []
    ∧ configFindings { Items.reset with framePeriod := 2500 } held.curves = []
    ∧ (configFindings held.items held.curves = [] ∧ held.items.checkMode = .full)
    ∧ ((reuse [⟨3, .openLoop⟩, ⟨4, .openLoop⟩]).map.valid = true
      ∧ configFindings (reuse []).items (reuse []).curves = [] ∧ (reuse []).items.checkMode ≠ .full
      ∧ (∃ f ∈ derived [⟨3, .openLoop⟩, ⟨4, .openLoop⟩], f.kind ≠ .coilOpen ∧ f.kind ≠ .coilShort)
      ∧ (∀ f ∈ derived [⟨3, .openLoop⟩, ⟨5, .openLoop⟩], f.kind = .coilOpen ∨ f.kind = .coilShort))
    ∧ (reuse []).slot0 = .free ∧ (reuse []).slot1 = .free ∧ (reuse []).run.isEmpty = true := by decide +kernel

theorem witness_CoilClassified :
    (checkingAt .x 174).engine = .checking (passAt .x 174) ∧ (passAt .x 174).left = 0
    ∧ (checkingAt .x 174).report.findings.length ≤ 16
    ∧ (174 + 1 < (checkingAt .x 174).items.coils .x) ∧ ¬ (175 + 1 < (checkingAt .x 175).items.coils .x)
    ∧ (passAt .x 175).axis = .x
    ∧ ((63 : BitVec 10).toNat ≤ 63 ∧ 961 ≤ (961 : BitVec 10).toNat
      ∧ ¬ ((64 : BitVec 10).toNat ≤ 63 ∨ 961 ≤ (64 : BitVec 10).toNat)
      ∧ ¬ ((960 : BitVec 10).toNat ≤ 63 ∨ 961 ≤ (960 : BitVec 10).toNat)) := by decide

theorem witness_SensingPassCompletes :
    (checkingAt .y 99).engine = .checking (passAt .y 99) ∧ (passAt .y 99).left = 0 ∧ (passAt .y 99).axis = .y
    ∧ (checkingAt .y 99).items.yCoils ≤ 99 + 1 ∧ (checkingAt .y 99).report.findings.length ≤ 16
    ∧ ((63 : BitVec 10).toNat ≤ 63 ∧ ¬ ((64 : BitVec 10).toNat ≤ 63 ∨ 961 ≤ (64 : BitVec 10).toNat))
    ∧ ({ passAt .y 99 with failed := true } : SensePass).failed = true ∧ (passAt .y 99).failed ≠ true
    ∧ (checkingAt .y 99).run.isEmpty = true
    ∧ ({ checkingAt .y 99 with run := { p0 := true, p1 := false } } : State).run.isEmpty = false := by decide

/-! ### Configuration -/

theorem witness_ConfigurationGateTests :
    start.receiving .p0 = true ∧ ({ start with engine := .idle } : State).engine ≠ .halted
    ∧ (start.engine = .halted ∧ start.hold.has .p0 = false) ∧ (held.engine = .halted ∧ held.hold.has .p0 = true)
    ∧ Item.ofId 0x07 = none ∧ Item.ofId 0x30 = some .ringBase ∧ (withEntry held waiting).entry 0 ≠ none
    ∧ (Item.ofId 0x42 = some (.kind 0 .eraser) ∧ (Item.kind 0 .eraser).range = .codes 9 ∧ 9 ≤ (9 : Half).toNat)
    ∧ 4 ≤ (4 : Byte).toNat
    ∧ (let s : State :=
        { held with hold := { p0 := true, p1 := true }, curves := held.curves.set 1 (.loading 2 [] (some .p1)) }
       fourOf 1 = some 1 ∧ s.curves[(1 : Fin 4)] = .loading 2 [] (some (PortId.other .p0))
        ∧ s.hold.has (PortId.other .p0) = true) := by decide +kernel

theorem witness_ConfigWriteStores :
    held.receiving .p0 = true ∧ held.engine = .halted ∧ held.hold.has .p0 = true
    ∧ ⟨0x03, .numeric 100 1000, 400⟩ ∈ held.items.table ∧ 0x03 = (0x03 : Byte).toNat
    ∧ ⟨0x05, .codes 2, 0⟩ ∈ held.items.table ∧ 0x05 = (0x05 : Byte).toNat ∧ (1 : Half).toNat < 2
    ∧ ⟨0x02, .numeric 8 128, 100⟩ ∈ held.items.table ∧ 0x02 = (0x02 : Byte).toNat := by decide +kernel

theorem witness_GeometryWriteFlushes :
    held.receiving .p0 = true ∧ held.engine = .halted ∧ held.hold.has .p0 = true
    ∧ Item.ofId 0x30 = some .ringBase ∧ Item.ofId 0x31 = some .ringBanks ∧ ∀ e, held.entry e = none := by decide

theorem witness_ConfigurationFixedOutsideHalted :
    exec (.stop .p0) (scanning none none) = .next (ran (.stop .p0) (scanning none none))
    ∧ (scanning none none).engine ≠ .halted ∧ ∀ a b c d e, Instr.stop .p0 ≠ .fullReset a b c d e :=
  ⟨rfl, by decide, by decide⟩

theorem witness_CurveLoading :
    held.receiving .p0 = true ∧ held.engine = .halted ∧ (1 : Byte).toNat = (1 : Fin 4).val ∧ held.hold.has .p0 = true
    ∧ (4 ≤ (4 : Byte).toNat ∧ ({ start with engine := .idle } : State).engine ≠ .halted)
    ∧ (held.curves[(1 : Fin 4)] = .empty ∧ ¬ (held.hold.has (PortId.other .p0) = true))
    ∧ (let s : State := { held with curves := held.curves.set 1 (.loading 2 [⟨0, 0⟩] (some .p0)) }
       s.curves[(1 : Fin 4)] = .loading 2 [⟨0, 0⟩] (some .p0))
    ∧ held.curves[(0 : Fin 4)] = .loaded [⟨0, 0⟩, ⟨4095, 8191⟩] := by decide +kernel

/-! ### Frames and slots -/

theorem witness_FrameStart :
    (scanning none none).engine = .scanning { start := 0, frame := none, sweep := none }
    ∧ seqDist 0 ({ scanning none none with counter := 4999 } : State).counter < (scanning none none).items.framePeriod
    ∧ (scanning none none).items.framePeriod ≤ seqDist 0 ({ scanning none none with counter := 5000 } : State).counter
    ∧ (scanning none none).trackPlan ≠ [] ∧ ({ scanning none none with slot0 := .free } : State).trackPlan = []
    ∧ 8 ≤ (scanning none none).items.xCoils ∧ 8 ≤ (scanning none none).items.yCoils := by decide +kernel

/-- A sweep of one channel at this place. -/
def sweepAt (axis : Axis) (coil : Nat) : Sweep := { list := [0], cursor := { index := 0, axis := axis, coil := coil }, got := [] }

theorem witness_ReadingEndTakesReading :
    let f := frameIn (.tracking aRead [] [] (.reading 0))
    let g := frameIn (.searching 1 (.reading 0))
    (scanning (some f) none).engine = .scanning { start := 0, frame := some f, sweep := none }
    ∧ f.stage = .tracking aRead [] [] (.reading 0)
    ∧ (frameIn (.tracking aRead [aRead] [] (.reading 0))).stage = .tracking aRead [aRead] [] (.reading 0)
    ∧ (scanning (some g) (some (sweepAt .x 175))).engine
        = .scanning { start := 0, frame := some g, sweep := some (sweepAt .x 175) }
    ∧ g.stage = .searching 1 (.reading 0) ∧ (sweepAt .x 175).list[(sweepAt .x 175).cursor.index]? = some 0
    ∧ (¬ (175 + 1 < (scanning none none).items.xCoils) ∧ ¬ (99 + 1 < (scanning none none).items.yCoils)
      ∧ ¬ ((sweepAt .y 99).cursor.axis = .x) ∧ ¬ ((sweepAt .y 99).cursor.index + 1 < (sweepAt .y 99).list.length)) := by
  decide +kernel

theorem witness_GuardExpirySearches :
    let f := frameIn (.guarding 0)
    let s := scanning (some f) none
    s.engine = .scanning { start := 0, frame := some f, sweep := none } ∧ f.stage = .guarding 0
    ∧ ¬ (s.slot0 ≠ .free ∧ s.slot1 ≠ .free)
    ∧ (let t : State := { s with slot1 := .tracking { track with kind := 1 } }
       t.slot0 ≠ .free ∧ t.slot1 ≠ .free)
    ∧ (scanning (some f) (some (sweepAt .x 0))).engine
        = .scanning { start := 0, frame := some f, sweep := some (sweepAt .x 0) }
    ∧ s.searchList = [] ∧ ({ s with slot0 := .free } : State).searchList = [0, 1] := by decide +kernel

theorem witness_QuietEndsWait :
    let f := frameIn (.tracking aRead [] [] (.waiting 0))
    let s := scanning (some f) none
    start.engine = .halted
    ∧ s.engine = .scanning { start := 0, frame := some f, sweep := none }
    ∧ f.stage = Stage.tracking aRead [] [] (.waiting 0)
    ∧ (frameIn (.searching 1 (.waiting 0))).stage = Stage.searching 1 (.waiting 0)
    ∧ s.items.quietTimeout ≤ seqDist 0 ({ s with counter := 500 } : State).counter
    ∧ seqDist 0 ({ s with counter := 499 } : State).counter < s.items.quietTimeout := by decide

/-- Seven readings whose peak is `a`. -/
def seven (a : Nat) : List Reading := [⟨0, 0⟩, ⟨0, 0⟩, ⟨0, 0⟩, ⟨a, 1600⟩, ⟨0, 0⟩, ⟨0, 0⟩, ⟨0, 0⟩]

/-- The readings of a frame whose frame strength is `a`. -/
def gotAt (a : Nat) : List (TrackRead × Reading) :=
  (slotReads Items.reset .s0 (.tracking track)).zip (seven a ++ seven a ++ seven 300 ++ seven 300)

theorem witness_GoodFrame :
    let s := scanning none none
    s.slot .s0 = .tracking track
    ∧ s.items.leaveLevel ≤ (s.sampleOf (gotAt 1200) .s0 track).vals.tipAmp
    ∧ (track.contact = false ∧ s.items.contactOn ≤ (s.sampleOf (gotAt 1200) .s0 track).vals.pressure)
    ∧ ({ track with contact := true } : Track).contact ≠ false := by
  decide +kernel

theorem witness_FaintFrameAndClosing :
    let s := scanning none none
    s.slot .s0 = .tracking track ∧ (s.sampleOf (gotAt 1199) .s0 track).vals.tipAmp < s.items.leaveLevel
    ∧ track.first = false ∧ track.lastGood = some vals ∧ track.miss + 1 < s.items.leaveCount
    ∧ ({ track with miss := 2 } : Track).miss + 1 = s.items.leaveCount ∧ ({ track with first := true } : Track).first = true := by
  decide +kernel

theorem witness_SweepAllocates :
    (sweepAt .y 99).list.Nodup ∧ start.slot0 = .free ∧ start.slot1 = .free ∧ (scanning none none).slot0 ≠ .free
    ∧ (scanning none none).slot1 = .free
    ∧ (let s : State := { start with slot1 := .tracking track }
       s.slot0 = .free ∧ s.slot1 ≠ .free) := by decide +kernel

/-- A channel that is a candidate: its peak stands at X coil 1 with 2000 and at Y coil 0 with 2500. -/
theorem witness_SweepAllocates_found :
    let xs : List Reading := [⟨0, 0⟩, ⟨2000, 0⟩, ⟨2000, 7⟩]
    let ys : List Reading := [⟨2500, 0⟩]
    isPeak xs 1 2000 ∧ isPeak ys 0 2500 ∧ start.items.enterLevel ≤ min 2000 2500
    ∧ ((start.items.kinds[(0 : Fin 4)]).enabled = true ∧ (start.items.kinds[(0 : Fin 4)]).tip = 0) := by
  refine ⟨⟨by decide, ?_, .inr ⟨_, rfl, rfl⟩⟩, ⟨by decide, fun i r h => by omega, .inr ⟨_, rfl, rfl⟩⟩, by decide, by decide⟩
  intro i r hi hr
  have h0 : i = 0 := by omega
  subst h0
  cases hr
  decide

/-! ### The solver -/

theorem witness_SubstitutionFromNeighbours :
    let rs := seven 9000
    rs[3]? = some ⟨9000, 1600⟩ ∧ 34 + 3 ∈ [37] ∧ 34 + 3 ∉ [38] ∧ 0 < 3 ∧ rs[3 - 1]? = some ⟨0, 0⟩ ∧ rs[3 + 1]? = some ⟨0, 0⟩
    ∧ (rs[6]? = some ⟨0, 0⟩ ∧ rs[6 - 1]? = some ⟨0, 0⟩ ∧ rs[6 + 1]? = none ∧ 34 + 6 ∈ [40])
    ∧ (rs[0]? = some ⟨0, 0⟩ ∧ rs[1]? = some ⟨0, 0⟩ ∧ 34 + 0 ∈ [34]) := by decide

theorem witness_RoundsHalfAwayFromZero : (-64 : Int) ≠ 0 := by decide

theorem witness_InterpolationStaysNearPeak :
    400 % 2 = 0 ∧ 1002 ≤ 1017 ∧ 1000 ≤ 1017 ∧ 1002 < 1017 ∧ 1000 < 1002 ∧ (3000 < 8000 ∧ 8000 ≤ 8000)
    ∧ (seven 9000).length = 7 ∧ 169 + 7 ≤ 176 := by decide

/-- A window of the array that reads `seven 9000`. -/
def windowOf (first coils : Nat) : WindowIn := { first := first, coils := coils, listed := [], readings := seven 9000 }

theorem witness_PressureFromPhase :
    let linear : List Knot := [⟨0, 0⟩, ⟨4095, 8191⟩]
    256 ≤ Kind.reset0.phaseSpan ∧ Kind.reset0.phaseSpan ≤ 4095
    ∧ ((solveWindow 400 (windowOf 34 176)).phase = 1600 ∧ 400 ≤ 1600 ∧ 1600 < 400 + 2400)
    ∧ 1600 < ({ Kind.reset0 with phaseZero := 1601 } : Kind).phaseZero
    ∧ ({ Kind.reset0 with phaseZero := 1344, phaseSpan := 256 } : Kind).phaseZero + 256 ≤ 1600
    ∧ linear.head?.map Knot.input = some 0 ∧ linear.getLast?.map Knot.input = some 4095
    ∧ (linear.map Knot.input).Pairwise (· < ·) ∧ (linear.map Knot.output).Pairwise (· ≤ ·) := by decide +kernel

theorem witness_TiltWithinReach :
    500 ≤ Kind.reset0.spacing ∧ Kind.reset0.spacing ≤ 3000 ∧ Kind.reset0.tipCorr ≤ 128
    ∧ 299 < Kind.reset0.collarMin ∧ Kind.reset0.collarMin ≤ 300
    ∧ (1500 * 1500 + 0 * 0 : Int) ≤ (1500 : Int) * 1500 ∧ (1500 : Int) * 1500 < 1500 * 1500 + 1 * 1 := by decide

theorem witness_SampleInRange :
    let linear : List Knot := [⟨0, 0⟩, ⟨4095, 8191⟩]
    Items.reset.pitch % 2 = 0 ∧ 2 ≤ Items.reset.pitch ∧ Items.reset.xCoils = (windowOf 34 176).coils
    ∧ Items.reset.yCoils = (windowOf 93 100).coils
    ∧ (∀ w ∈ [windowOf 34 176, windowOf 93 100, windowOf 0 176, windowOf 0 100],
        w.readings.length = 7 ∧ w.first + 7 ≤ w.coils ∧ ∀ r ∈ w.readings, r.amp ≤ 65535 ∧ r.phase ≤ 4095)
    ∧ linear.head?.map Knot.input = some 0 ∧ linear.getLast?.map Knot.input = some 4095
    ∧ (linear.map Knot.input).Pairwise (· < ·) ∧ (linear.map Knot.output).Pairwise (· ≤ ·)
    ∧ ∀ x ∈ linear, x.output ≤ 8191 := by decide

theorem witness_RecordPlaceBytes :
    Place.void 0x01020304 = .void 0x01020304 ∧ Place.stroke brk0 = .stroke brk0 ∧ brk0.body = .brk .stopped
    ∧ (let f := strokeOf .s0 track vals
       let r : Record := { brk0 with body := .stroke .sample f }
       r.body = .stroke .sample f ∧ f.x < 2 ^ 32 ∧ f.y < 2 ^ 32 ∧ f.pressure < 65536 ∧ f.tipAmp < 65536 ∧ f.colAmp < 65536
       ∧ f.travel < 65536 ∧ -32768 ≤ f.tiltY ∧ f.tiltY ≤ 32767 ∧ -32768 ≤ f.tiltX ∧ f.tiltX ≤ 32767
       ∧ -32768 ≤ f.colDx ∧ f.colDx ≤ 32767 ∧ -32768 ≤ f.colDy ∧ f.colDy ≤ 32767) := by decide

/-! ### Time and the laws -/

theorem witness_TimeAndHistoryAdvance :
    exec (.hold .p0) (scanning none none) = .next (ran (.hold .p0) (scanning none none))
    ∧ (∀ a b c d e, Instr.hold .p0 ≠ .fullReset a b c d e) ∧ Instr.hold .p0 ≠ .timestampCounterTick
    ∧ (checkingAt .x 0).engine = .checking (passAt .x 0)
    ∧ (start.engine.isScanning = false ∧ start.engine = .halted)
    ∧ (scanning none none).engine = .scanning { start := 0, frame := none, sweep := none }
    ∧ (scanning (some (frameIn (.guarding 0))) none).engine
        = .scanning { start := 0, frame := some (frameIn (.guarding 0)), sweep := none } :=
  ⟨rfl, by decide, by decide, by decide, by decide, by decide, by decide⟩

/-- The front command of a SCANNING part is a HOLD. -/
def lawful : State := { scanning none (some (sweepAt .x 0)) with pending := [.hold .p1] }

theorem witness_EngineAndSlotLawsKept :
    lawful.engineLaw = true ∧ lawful.slotLaw ∧ ∃ t, step lawful = .next t := by
  refine ⟨by decide, ⟨by decide, by decide, by decide, by decide, by decide, ?_⟩,
    ran (.hold .p1) { lawful with pending := [] }, rfl⟩
  intro sw h
  cases h
  decide

theorem witness_CurveAndCheckLawsKept :
    lawful.curveLaw ∧ lawful.engineLaw = true ∧ lawful.checkLaw ∧ ∃ t, step lawful = .next t := by
  refine ⟨?_, by decide, ⟨?_, ?_, trivial, fun h => absurd h (by decide), by decide, by decide,
      by decide⟩,
    ran (.hold .p1) { lawful with pending := [] }, rfl⟩
  · unfold State.curveLaw
    decide
  · exact ⟨by decide, by decide, by decide⟩
  · exact ⟨by decide, by decide, by decide⟩

/-- A record being sent, whose cursor stands at it. -/
theorem witness_HistoryLawKept_sending : (sending one (.read 1 0 (some (.stroke brk0))) 32).transferLaw .p0 := fun _ =>
  ⟨rfl, by decide⟩

/-- The full ring with a FLUSH in front. -/
def busy : State := { full with pending := [.flush .p0] }

theorem witness_HistoryLawKept : busy.historyLaw ∧ step busy = .next (ran (.flush .p0) { busy with pending := [] }) :=
  ⟨witness_full_historyLaw, rfl⟩

/-! ## What falls together with an append (R109) -/

/-- Section 6.8.3 at the last reading of the frame, faint for both slots: the FLUSH of port 0 waits. -/
def beside : State :=
  { scanning (some (frameIn (.tracking aRead [] [] (.reading 0)))) none with
    slot1 := .tracking { track with kind := 1 }
    ring := { w := 7400, o := 6000, writePos := 0 }
    pending := [.flush .p0] }

/-- Its work for S0 done. -/
def besideS0 : State := beside.solveSlot [(aRead, ⟨0, 0⟩)] 0 .s0

/-- The ring's O and W, the lag of port 1 and the answer to the FLUSH, when S1's work follows `u` and then the FLUSH's own turn. -/
def besideEnd (u : State) : Seq × Seq × Nat × Option Reply :=
  let t := ran (.flush .p0) (u.solveSlot [(aRead, ⟨0, 0⟩)] 0 .s1)
  (t.ring.o, t.ring.w, t.lag .p1, replyOf t .p0)

/-- R109: where the FLUSH is taken first. -/
theorem test_flush_first :
    besideEnd (ran (.flush .p0) besideS0) = (7401, 7402, 1, some { result := .ok, fields := [.u32 7401, .u32 7401] }) := by
  decide +kernel

/-- R109: where S1's append is taken first. -/
theorem test_append_first :
    besideEnd besideS0 = (7402, 7402, 0, some { result := .ok, fields := [.u32 7402, .u32 7402] }) := by
  decide +kernel

/-- The free value says which of the two it is. -/
theorem test_flush_beside_append :
    besideS0.takeTogether []
      = if Config.takenBefore 0 then { ran (.flush .p0) besideS0 with choices := 1 } else { besideS0 with choices := 1 } := rfl

theorem test_readingEnd_beside :
    exec (.readingEnd 0 0) beside
      = .next (((besideS0.takeTogether []).solveSlot [(aRead, ⟨0, 0⟩)] 0 .s1).setRun
          { start := 0, frame := some (frameIn (.guarding 100)), sweep := none }) := rfl

theorem witness_ReadingEndTakesReading_together :
    beside.engine = .scanning { start := 0, frame := some (frameIn (.tracking aRead [] [] (.reading 0))), sweep := none }
    ∧ PortId.p0 ∉ ([] : List PortId) ∧ besideS0.pending = [.flush .p0] ∧ besideS0.receiving .p0 = true := by decide +kernel

/-- A stop by port 0, with a FLUSH of port 1 behind it. -/
theorem witness_HoldTakesEffect_together :
    let s : State := { scanning none none with pending := [.flush .p1] }
    s.receiving .p0 = true ∧ s.engine = .scanning { start := 0, frame := none, sweep := none }
    ∧ (s.run.erase .p0).isEmpty = true ∧ PortId.p1 ∉ [PortId.p0] ∧ (s.closeSlot .s0 0).pending = [.flush .p1]
    ∧ (s.closeSlot .s0 0).receiving .p1 = true := by decide +kernel

end Sys2Proof.Tests
end

section
/-!
PROOFS. What one append, and several, change of the state (R104, R114, R140).
-/

namespace Sys2Proof.KindsAndCurves

open Sys2Proof.Machine

variable (s t u : State) (p q : PortId) (time : Time) (body : RecordBody) (i : SlotId)

/-! ## Appends -/

/-- A property that the ring and its banks do not touch, and that a lap and an overtaking keep, outlives an append. -/
theorem append_induct (P : State → Prop) (hring : ∀ ring store, P { s with ring := ring, store := store })
    (hlap : ∀ u q old, P u → P (u.lapCursor q old)) (hover : ∀ u e old, P u → P (u.overtakeEntry old e)) :
    P (s.append time body) := by
  unfold State.append
  split
  · exact hring _ _
  · have hp (u : State) (old) (h : P u) : P (u.forPorts fun p t => t.lapCursor p old) := hlap _ .p1 _ (hlap _ .p0 _ h)
    have he (u : State) (old) (h : P u) : P (u.forEntries (State.overtakeEntry old)) :=
      hover _ 3 _ (hover _ 2 _ (hover _ 1 _ (hover _ 0 _ h)))
    exact he _ _ (hp _ _ (hring _ _))

/-- `t` differs from `s` only where the records of a slot are kept: the slots, the ring with its
banks, the captures and the ports. -/
def recordsOnly (s t : State) : Prop :=
  t = { s with
    slot0 := t.slot0, slot1 := t.slot1, ring := t.ring, store := t.store, entries := t.entries, port0 := t.port0
    port1 := t.port1 }

theorem recordsOnly_trans {s t u : State} (h : recordsOnly s t) (k : recordsOnly t u) : recordsOnly s u := by
  unfold recordsOnly at *
  rw [k, h]

theorem recordsOnly_setPort (x : Port) : recordsOnly s (s.setPort p x) := by cases p <;> rfl

theorem recordsOnly_setSlot (x : Slot) : recordsOnly s (s.setSlot i x) := by cases i <;> rfl

theorem recordsOnly_raiseBoth (c : Cond) : recordsOnly s (s.raiseBoth c) := rfl

theorem recordsOnly_append : recordsOnly s (s.append time body) := by
  refine append_induct s time body (recordsOnly s) (fun _ _ => rfl) (fun u q old h => ?_) (fun u e old h => ?_)
  · obtain ⟨x, hx⟩ := u.lapCursor_frame q old
    exact recordsOnly_trans h (hx ▸ recordsOnly_setPort u q x)
  · obtain ⟨x, q, y, hx⟩ := u.overtakeEntry_frame e old
    exact recordsOnly_trans h (hx ▸ recordsOnly_setPort (u.setEntry e x) q y)

/-! ## What an append does to a cursor, an entry and a port -/

theorem lapsOnly_refl (c : Cursor) : c.lapsOnly c := ⟨rfl, fun _ => rfl⟩

theorem lapsOnly_trans {a b c : Cursor} (h : a.lapsOnly b) (k : b.lapsOnly c) : a.lapsOnly c := by
  obtain ⟨hb, hm⟩ := h
  obtain ⟨hc, km⟩ := k
  refine ⟨?_, fun hf => ?_⟩
  · rw [hc, hb]
  · have hcb := km hf
    rw [hcb, hm (hcb ▸ hf)]

theorem overtakenOnly_trans {a b c : Option Held} (h : overtakenOnly a b) (k : overtakenOnly b c) : overtakenOnly a c := by
  obtain rfl | ⟨g, rfl, hs, rfl⟩ := h
  · exact k
  · obtain rfl | ⟨g', hg, hs', -⟩ := k
    · exact .inr ⟨g, rfl, hs, rfl⟩
    · cases hg
      cases hs'

/-- A port in all but its cursor and its latched set, of which only PROX, as `prox` says, LAPPED and CAPTURE may be raised. -/
def portAppended (prox : Bool) (a b : Port) : Prop :=
  b = { a with
    cursor := b.cursor
    latched := { a.latched with
      prox := a.latched.prox || prox, lapped := b.latched.lapped, capture := b.latched.capture } }

theorem portAppended_refl (a : Port) : portAppended false a a := by simp [portAppended]

theorem portAppended_trans {x y : Bool} {a b c : Port} (h : portAppended x a b) (k : portAppended y b c) :
    portAppended (x || y) a c := by
  unfold portAppended at *
  rw [k, h]
  simp [Bool.or_assoc]

/-- A cursor lapped at most, and beside it of a port no more than LAPPED and CAPTURE raised. -/
def portLapped (a b : Port) : Prop := a.cursor.lapsOnly b.cursor ∧ portAppended false a b

theorem portLapped_refl (a : Port) : portLapped a a := ⟨lapsOnly_refl _, portAppended_refl _⟩

theorem portLapped_trans {a b c : Port} (h : portLapped a b) (k : portLapped b c) : portLapped a c :=
  ⟨lapsOnly_trans h.1 k.1, portAppended_trans h.2 k.2⟩

theorem lapCursor_portLapped (old : Seq) : portLapped (s.port q) ((s.lapCursor p old).port q) := by
  obtain ⟨-, h⟩ | ⟨-, -, h⟩ | ⟨-, -, h⟩ := s.lapCursor_cases p old <;> rw [h]
  · exact portLapped_refl _
  all_goals
    obtain rfl | rfl := PortId.eq_or_other p q
    · simp [portLapped, Cursor.lapsOnly, portAppended, Latched.raise]
    · simpa using portLapped_refl _

theorem overtakeEntry_portLapped (old : Seq) (e : Fin 4) : portLapped (s.port q) ((s.overtakeEntry old e).port q) := by
  obtain h | ⟨g, -, -, -, h⟩ := s.overtakeEntry_cases e old <;> rw [h]
  · exact portLapped_refl _
  · unfold State.failEntry
    obtain hq | hq := PortId.eq_or_other g.owner q <;> subst hq
    · simp [portLapped, portAppended, Latched.raise, lapsOnly_refl]
    · simpa using portLapped_refl _

theorem overtakeEntry_overtakenOnly (old : Seq) (e e' : Fin 4) :
    overtakenOnly (s.entry e') ((s.overtakeEntry old e).entry e') := by
  obtain h | ⟨g, hg, hs, -, h⟩ := s.overtakeEntry_cases e old <;> rw [h]
  · exact .inl rfl
  · have hr : (s.failEntry e g .overtaken).entry e'
        = (s.setEntry e (some { g with stage := .failed .overtaken })).entry e' := by simp [State.failEntry, State.entry]
    rw [hr, State.entry_setEntry]
    split
    · rename_i he
      exact .inr ⟨g, he ▸ hg, hs, rfl⟩
    · exact .inl rfl

theorem append_portLapped : portLapped (s.port p) ((s.append time body).port p) := by
  refine append_induct s time body (fun u => portLapped (s.port p) (u.port p)) (fun _ _ => ?_) (fun u q old h => ?_)
    (fun u e old h => ?_)
  · cases p <;> exact portLapped_refl _
  · exact portLapped_trans h (lapCursor_portLapped u q p old)
  · exact portLapped_trans h (overtakeEntry_portLapped u p old e)

theorem append_overtakenOnly (e : Fin 4) : overtakenOnly (s.entry e) ((s.append time body).entry e) := by
  refine append_induct s time body (fun u => overtakenOnly (s.entry e) (u.entry e)) (fun _ _ => .inl rfl)
    (fun u q old h => ?_) (fun u e' old h => ?_)
  · simpa [State.entry] using h
  · exact overtakenOnly_trans h (overtakeEntry_overtakenOnly u old e' e)

/-! ## The ring after an append -/

@[simp] theorem append_capacity : (s.append time body).capacity = s.capacity := by simp [State.capacity]

theorem nextWritePos_eq_mod (hw : s.ring.writePos < s.capacity) : s.nextWritePos = (s.ring.writePos + 1) % s.capacity := by
  unfold State.nextWritePos
  split
  · rename_i h
    rw [h, Nat.mod_self]
  · rw [Nat.mod_eq_of_lt (by omega)]

theorem append_writePos_lt (hw : s.ring.writePos < s.capacity) :
    (s.append time body).ring.writePos < (s.append time body).capacity := by
  simp only [append_capacity, State.append_ring]
  rw [nextWritePos_eq_mod s hw]
  exact Nat.mod_lt _ (by omega)

/-- The `j`-th slot from the next write position is the one after the `j`-th from this one. -/
theorem append_writePos_add (hw : s.ring.writePos < s.capacity) (j : Nat) :
    ((s.append time body).ring.writePos + j) % s.capacity = (s.ring.writePos + (j + 1)) % s.capacity := by
  simp only [State.append_ring]
  rw [nextWritePos_eq_mod s hw, Nat.mod_add_mod, Nat.add_assoc, Nat.add_comm 1]

theorem nextAddrs_succ (hw : s.ring.writePos < s.capacity) (n : Nat) :
    s.nextAddrs (n + 1) = s.ringAddr s.ring.writePos :: (s.append time body).nextAddrs n := by
  unfold State.nextAddrs
  rw [List.range_succ_eq_map, List.map_cons, List.map_map, Nat.add_zero, Nat.mod_eq_of_lt hw]
  refine congrArg (List.cons _) (List.map_congr_left fun j _ => ?_)
  simp only [Function.comp_apply, State.ringAddr, append_capacity, State.append_items]
  rw [append_writePos_add s time body hw]

/-- An address written in one round of the ring is not written again in that round. -/
theorem writePos_notMem_nextAddrs (hw : s.ring.writePos < s.capacity) {n : Nat} (hn : n < s.capacity) :
    s.ringAddr s.ring.writePos ∉ (s.append time body).nextAddrs n := by
  simp only [State.nextAddrs, List.mem_map, List.mem_range, not_exists, not_and, append_capacity, State.ringAddr, bankAddr,
    State.append_items]
  intro j hj
  rw [append_writePos_add s time body hw]
  have hne : (s.ring.writePos + (j + 1)) % s.capacity ≠ s.ring.writePos := by
    by_cases h : s.ring.writePos + (j + 1) < s.capacity
    · rw [Nat.mod_eq_of_lt h]; omega
    · rw [Nat.mod_eq_sub_mod (by omega), Nat.mod_eq_of_lt (by omega)]; omega
  omega

theorem append_count_le (hr : s.count < s.capacity) : (s.append time body).count ≤ s.count + 1 := by
  unfold State.count seqDist at *
  rw [State.append_ring, if_pos (by exact hr)]
  show (s.ring.w + 1 - s.ring.o).toNat ≤ _
  bv_omega

/-! ## Several appends -/

/-- From `s` to `t` the records of a list, each with its time, have been appended in order. -/
def wrote (s t : State) (l : List (Time × RecordBody)) : Prop :=
  s.appended t l.length
  ∧ ∀ j time body, l[j]? = some (time, body) →
      Store.read t.store (s.ringAddr ((s.ring.writePos + j) % s.capacity))
        = some { seq := s.ring.w + BitVec.ofNat 32 j, tile := s.tile, time := time, body := body }

theorem appended_zero : s.appended s 0 :=
  ⟨by simp, fun _ _ => rfl, fun _ => lapsOnly_refl _, fun _ => .inl rfl, fun _ => ⟨rfl, rfl, fun _ => ⟨rfl, rfl, rfl⟩⟩⟩

theorem wrote_nil : wrote s s [] := ⟨appended_zero s, by simp⟩

theorem appended_succ {n : Nat} (hw : s.ring.writePos < s.capacity) (h : (s.append time body).appended t n) :
    s.appended t (n + 1) := by
  obtain ⟨hwt, hread, hcur, hent, hroom⟩ := h
  refine ⟨?_, fun a ha => ?_, fun p => ?_, fun e => ?_, fun hc => ?_⟩
  · rw [hwt, State.append_ring, Nat.add_comm n, BitVec.ofNat_add, ← BitVec.add_assoc]
    rfl
  · rw [nextAddrs_succ s time body hw, List.mem_cons, not_or] at ha
    rw [hread a ha.2, State.append_store, Store.read_write_other _ _ _ _ ha.1]
  · exact lapsOnly_trans (append_portLapped s p time body).1 (hcur p)
  · exact overtakenOnly_trans (append_overtakenOnly s time body e) (hent e)
  · have hr : s.count < s.capacity := by omega
    have hle := append_count_le s time body hr
    obtain ⟨ho, he, hp⟩ := hroom (by rw [append_capacity]; omega)
    obtain ⟨h0, h1, hes⟩ := s.append_room time body hr
    refine ⟨?_, he.trans hes, fun p => ?_⟩
    · rw [ho, State.append_ring, if_pos hr]
    · have hs : (s.append time body).port p = s.port p := by cases p <;> assumption
      rw [← hs]
      exact hp p

theorem wrote_cons {l : List (Time × RecordBody)} (hw : s.ring.writePos < s.capacity) (hl : l.length < s.capacity)
    (h : wrote (s.append time body) t l) : wrote s t ((time, body) :: l) := by
  obtain ⟨happ, hread⟩ := h
  refine ⟨appended_succ s t time body hw happ, fun j time' body' hj => ?_⟩
  cases j with
  | zero =>
    obtain ⟨rfl, rfl⟩ : time = time' ∧ body = body' := by simpa using hj
    rw [Nat.add_zero, Nat.mod_eq_of_lt hw, happ.2.1 _ (writePos_notMem_nextAddrs s time body hw hl), State.append_store,
      Store.read_write_same]
    simp [State.appendedRecord]
  | succ j =>
    have hr := hread j time' body' (by simpa using hj)
    rw [append_capacity, append_writePos_add s time body hw] at hr
    simp only [State.ringAddr, State.append_items, State.append_tile] at hr
    rw [State.ringAddr, hr, State.append_ring, Nat.add_comm j, BitVec.ofNat_add, ← BitVec.add_assoc]
    rfl

end Sys2Proof.KindsAndCurves
end

section
/-!
PROOFS. The stop of frames by a port, with the closing of the slots (R55, R71, R72).
-/

namespace Sys2Proof.KindsAndCurves

open Sys2Proof.Machine

variable (s t u : State) (p q : PortId) (time : Time) (i : SlotId)

/-! ## A slot that is closed (R71) -/

theorem wrote_setSlot {l : List (Time × RecordBody)} {x : Slot} (h : wrote (s.setSlot i x) t l) : wrote s t l := by
  simpa [wrote, State.appended, State.nextAddrs, State.ringAddr, State.capacity, State.count, State.entry] using h

theorem wrote_raiseProx {l : List (Time × RecordBody)} (h : wrote (s.raiseBoth .prox) t l) : wrote s t l := by
  simpa [wrote, State.appended, State.nextAddrs, State.ringAddr, State.capacity, State.count, State.entry, Latched.raise]
    using h

/-- A change of engine state after the appends adds no record. -/
theorem wrote_toEngine {l : List (Time × RecordBody)} (e : Engine) (h : wrote s t l) : wrote s (t.toEngine e) l := by
  have hp (p : PortId) : ({ t with engine := e } : State).port p = t.port p := by cases p <;> rfl
  simpa [wrote, State.appended, State.toEngine, State.entry, hp, Latched.raise] using h

/-- Closing a slot frees it, with the LEAVE and PROX of a slot past its ENTER. -/
theorem closeSlot_eq :
    s.closeSlot i time = s.setSlot i .free ∧ (s.slot i).closingRecord i = none
    ∨ ∃ body, (s.slot i).closingRecord i = some body
        ∧ s.closeSlot i time = ((s.append time body).raiseBoth .prox).setSlot i .free := by
  obtain ⟨hs, h⟩ | ⟨t, hs, h⟩ := s.closeSlot_cases time i
  · refine .inl ⟨?_, by simp [hs, Slot.closingRecord]⟩
    rw [h]
    cases i <;> (simp only [State.slot] at hs; simp [State.setSlot, ← hs])
  · rw [h, hs]
    obtain ⟨hn, hl⟩ | ⟨v, hf, hg, hl⟩ := s.leave_cases time i t
    · exact .inl ⟨hl, hn⟩
    · exact .inr ⟨_, by simp only [Slot.closingRecord, hf, hg]; rfl, hl⟩

/-- The record, if any, that closing slot `i` appends. -/
def closingRecords (s : State) (i : SlotId) : List RecordBody := ((s.slot i).closingRecord i).toList

theorem closeSlot_wrote {l : List (Time × RecordBody)} (hw : s.ring.writePos < s.capacity) (hl : l.length < s.capacity)
    (h : wrote (s.closeSlot i time) t l) : wrote s t ((closingRecords s i).map (fun body => (time, body)) ++ l) := by
  unfold closingRecords
  obtain ⟨hc, hn⟩ | ⟨body, hb, hc⟩ := closeSlot_eq s time i
  · rw [hn]
    exact wrote_setSlot s t i (hc ▸ h)
  · rw [hb]
    exact wrote_cons s t time body hw hl (wrote_raiseProx _ _ (wrote_setSlot _ _ i (hc ▸ h)))

theorem closeSlot_port : portAppended (decide (closingRecords s i ≠ [])) (s.port p) ((s.closeSlot i time).port p) := by
  unfold closingRecords
  obtain ⟨hc, hn⟩ | ⟨body, hb, hc⟩ := closeSlot_eq s time i
  · rw [hc, hn]
    simpa using portAppended_refl _
  · rw [hc, hb]
    have h := (append_portLapped s p time body).2
    unfold portAppended at h ⊢
    rw [State.setSlot_port, State.raiseBoth_port, h]
    simp [Latched.raise]

theorem closeSlot_capacity : (s.closeSlot i time).capacity = s.capacity := by
  obtain ⟨hc, -⟩ | ⟨body, -, hc⟩ := closeSlot_eq s time i <;> rw [hc] <;> simp [State.capacity]

theorem closeSlot_writePos_lt (hw : s.ring.writePos < s.capacity) :
    (s.closeSlot i time).ring.writePos < (s.closeSlot i time).capacity := by
  rw [closeSlot_capacity]
  obtain ⟨hc, -⟩ | ⟨body, -, hc⟩ := closeSlot_eq s time i <;> rw [hc]
  · simpa using hw
  · simpa using append_writePos_lt s time body hw

theorem closeSlot_slot (j : SlotId) : (s.closeSlot i time).slot j = if j = i then .free else s.slot j := by
  obtain ⟨hc, -⟩ | ⟨body, -, hc⟩ := closeSlot_eq s time i <;> rw [hc]
  all_goals cases i <;> cases j <;> simp [State.slot, State.setSlot]

theorem closeSlot_slot1 : (s.closeSlot .s0 time).slot1 = s.slot1 := closeSlot_slot s time .s0 .s1

theorem closeSlot_closingRecords : closingRecords (s.closeSlot .s0 time) .s1 = closingRecords s .s1 := by
  simp [closingRecords, closeSlot_slot1]

theorem closingRecords_length_le : (closingRecords s i).length ≤ 1 := by
  unfold closingRecords
  cases (s.slot i).closingRecord i <;> simp

theorem recordsOnly_closeSlot : recordsOnly s (s.closeSlot i time) := by
  obtain ⟨hc, -⟩ | ⟨body, -, hc⟩ := closeSlot_eq s time i <;> rw [hc]
  · exact recordsOnly_setSlot s i _
  · have hraised := recordsOnly_trans (recordsOnly_append s time body) (recordsOnly_raiseBoth _ .prox)
    exact recordsOnly_trans hraised (recordsOnly_setSlot _ i _)

/-! ## The stop of frames (R55, R71, R72) -/

/-- Where nothing of the other port waits, what a stop takes together with an append is nothing. -/
theorem takeTogether_of_notAtRing (h : ∀ i rest, s.pending = i :: rest → ¬ atRing p.other i) : s.takeTogether [p] = s := by
  refine s.takeTogether_alone [p] fun i rest q t hp he => ?_
  obtain rfl | rfl := PortId.eq_or_other p q
  · simp
  · exact absurd (State.ringEvent_atRing he) (h i rest hp)

/-- The stop with nothing beside it: S0 closed, S1 closed, and the BREAK. -/
def closedOff (s : State) (start : Time) (cause : BreakCause) : State :=
  ((s.closeSlot .s0 start).closeSlot .s1 start).append s.counter (.brk cause)

theorem closeFrames_of_notAtRing (start : Time) (cause : BreakCause)
    (h : ∀ i rest, s.pending = i :: rest → ¬ atRing p.other i) : s.closeFrames p start cause = closedOff s start cause := by
  have hpend (u : State) (i) : (u.closeSlot i start).pending = u.pending := by rw [recordsOnly_closeSlot u start i]
  have hcount (u : State) (i) : (u.closeSlot i start).counter = u.counter := by rw [recordsOnly_closeSlot u start i]
  simp only [State.closeFrames, closedOff]
  rw [takeTogether_of_notAtRing (s.closeSlot .s0 start) p (by rwa [hpend]),
    takeTogether_of_notAtRing ((s.closeSlot .s0 start).closeSlot .s1 start) p (by rwa [hpend, hpend]), hcount, hcount]

theorem closedOff_slots (start : Time) (cause : BreakCause) :
    (closedOff s start cause).slot0 = .free ∧ (closedOff s start cause).slot1 = .free := by
  have h0 := closeSlot_slot (s.closeSlot .s0 start) start .s1 .s0
  have h1 := closeSlot_slot (s.closeSlot .s0 start) start .s1 .s1
  rw [closeSlot_slot s start .s0 .s0] at h0
  exact ⟨by simpa [closedOff] using h0, by simpa [closedOff] using h1⟩

theorem closedOff_recordsOnly (start : Time) (cause : BreakCause) : recordsOnly s (closedOff s start cause) :=
  recordsOnly_trans (recordsOnly_trans (recordsOnly_closeSlot s start .s0) (recordsOnly_closeSlot _ start .s1))
    (recordsOnly_append _ s.counter _)

theorem closedOff_wrote (start : Time) (cause : BreakCause) (hw : s.ring.writePos < s.capacity) :
    wrote s (closedOff s start cause)
      ((closingRecords s .s0).map (fun body => (start, body))
        ++ ((closingRecords s .s1).map (fun body => (start, body)) ++ [(s.counter, .brk cause)])) := by
  have hcap : 2 < s.capacity := by
    unfold State.capacity bankSlots at *
    omega
  have hw0 := closeSlot_writePos_lt s start .s0 hw
  have hw1 := closeSlot_writePos_lt _ start .s1 hw0
  have hone := closingRecords_length_le s .s1
  have hbrk := wrote_cons _ (closedOff s start cause) s.counter (.brk cause) hw1
    (by rw [closeSlot_capacity, closeSlot_capacity, List.length_nil]; omega) (wrote_nil (closedOff s start cause))
  have hs1 := closeSlot_wrote _ _ start .s1 hw0 (by rw [closeSlot_capacity, List.length_singleton]; omega) hbrk
  rw [closeSlot_closingRecords] at hs1
  exact closeSlot_wrote s _ start .s0 hw (by simp; omega) hs1

theorem closedOff_port (start : Time) (cause : BreakCause) :
    portAppended (decide (closingRecords s .s0 ++ closingRecords s .s1 ≠ [])) (s.port p)
      ((closedOff s start cause).port p) := by
  have h := portAppended_trans
    (portAppended_trans (closeSlot_port s p start .s0) (closeSlot_port _ p start .s1))
    (append_portLapped ((s.closeSlot .s0 start).closeSlot .s1 start) p s.counter (.brk cause)).2
  rw [closeSlot_closingRecords] at h
  simpa [closedOff] using h

theorem closedOff_framesStopped (start : Time) (cause : BreakCause) (e : Engine) (hw : s.ring.writePos < s.capacity) :
    s.framesStopped ((closedOff s start cause).toEngine e) start cause := by
  obtain ⟨h0, h1⟩ := closedOff_slots s start cause
  obtain ⟨happ, hread⟩ := wrote_toEngine _ _ e (closedOff_wrote s start cause hw)
  refine ⟨h0, h1, ?_, ?_, fun q => ?_⟩
  · simpa [closingRecords] using happ
  · intro j time body hj
    have hr := hread j time body (by simpa [closingRecords] using hj)
    rwa [State.ringAddr, bankAddr, bankSlots, Nat.mul_comm] at hr
  · have hq := closedOff_port s q start cause
    have he (u : State) : ({ u with engine := e } : State).port q = u.port q := by cases q <;> rfl
    unfold portAppended at hq
    rw [State.toEngine, State.raiseBoth_port, he, hq]
    simp [Latched.raise, closingRecords]

/-- A port that stops frames does what the statements say of it. -/
theorem stopFrames_stopped (r : Run) (cause : BreakCause) (e : Engine) :
    s.stopped (s.stopFrames p r cause e) p r.start cause e := by
  refine ⟨⟨_, _, State.takeTogether_together _ [p], State.takeTogether_together _ [p], rfl⟩, fun h hw => ?_⟩
  unfold State.stopFrames
  rw [closeFrames_of_notAtRing s p r.start cause h]
  refine ⟨closedOff_framesStopped s r.start cause e hw, ?_⟩
  obtain ⟨h0, h1⟩ := closedOff_slots s r.start cause
  have hrec := closedOff_recordsOnly s r.start cause
  unfold recordsOnly at hrec
  rw [h0, h1] at hrec
  unfold State.toEngine
  rw [hrec]
  rfl

end Sys2Proof.KindsAndCurves
end

section
/-!
PROOFS. The start of the check (R9, R13, R40 to R44), and a port withdrawn from the hold and run sets (R38).
-/

namespace Sys2Proof.KindsAndCurves

open Sys2Proof.Machine

variable (s t u : State) (p q : PortId)

/-! ## The start of the check (R9, R13, R40 to R44) -/

theorem isFail_iff (f : Finding) : f.isFail = true ↔ f.kind ≠ .coilOpen ∧ f.kind ≠ .coilShort := by
  unfold Finding.isFail
  cases f.kind <;> simp

/-- The configuration check makes no NOTE (R42). -/
theorem configFindings_isFail (items : Items) (curves : Vector Curve 4) :
    ∀ f ∈ configFindings items curves, f.isFail = true := by
  have hgroups (f : Finding) (hf : f ∈ configFindings items curves) :
      f ∈ rangeFindings items ∨ f ∈ clashFindings items ∨ f ∈ reusedFindings items ∨ f ∈ sharedFindings items
        ∨ f ∈ curveFindings items curves ∨ f ∈ levelFindings items := by
    simpa [configFindings, or_assoc] using hf
  intro f hf
  obtain h | h | h | h | h | h := hgroups f hf
  · obtain ⟨c, -, rfl⟩ := List.mem_map.mp h
    rfl
  · obtain ⟨c, -, rfl⟩ := List.mem_map.mp h
    rfl
  · obtain ⟨k, -, hk⟩ := List.mem_filterMap.mp h
    obtain ⟨c, -, rfl⟩ := Option.map_eq_some_iff.mp hk
    rfl
  · obtain ⟨c, -, rfl⟩ := List.mem_map.mp h
    rfl
  · obtain ⟨c, -, hc⟩ := List.mem_filterMap.mp h
    unfold curveFinding at hc
    split at hc
    · cases hc
    · split at hc
      · cases hc; rfl
      · cases hc; rfl
      · obtain ⟨pos, -, rfl⟩ := Option.map_eq_some_iff.mp hc
        rfl
  · simp only [levelFindings, List.mem_append] at h
    obtain (h | h) | h := h <;> (split at h <;> simp at h; subst h; rfl)

/-- What a derivation finds at one listed coil and its place, `listed` being the whole list of the axis. -/
def derivedAt (listed : List Defect) (a : Axis) (limit : Nat) (c : Defect) (j : Nat) : List Finding :=
  defectFindings a c (decide (0 < j ∧ (listed[j - 1]?).map (fun d => d.coil + 1) = some c.coil)) (decide (j = limit))

theorem makesTooMany_succ (j limit : Nat) : makesTooMany (j + 1) limit (decide (limit < j)) = decide (j = limit) := by
  rw [makesTooMany, Bool.eq_iff_iff]
  simp only [Bool.and_eq_true, Bool.not_eq_true', decide_eq_true_eq, decide_eq_false_iff_not]
  omega

/-- The walk of a list, from its part `rest` on, `before` being what it has seen. -/
theorem deriveList_eq (a : Axis) (limit : Nat) (rest before : List Defect) :
    deriveList a limit rest (before.getLast?.map Defect.coil) before.length (decide (limit < before.length))
      = ((rest.zipIdx before.length).flatMap fun ci => derivedAt (before ++ rest) a limit ci.1 ci.2,
         decide (limit < (before ++ rest).length)) := by
  induction rest generalizing before with
  | nil => simp [deriveList]
  | cons c rest ih =>
    have hmade : (decide (limit < before.length) || decide (before.length = limit))
        = decide (limit < (before ++ [c]).length) := by
      rw [Bool.eq_iff_iff]
      simp only [Bool.or_eq_true, decide_eq_true_eq, List.length_append, List.length_singleton]
      omega
    have hprev : ((before.getLast?.map Defect.coil).map (· + 1) == some c.coil)
        = decide (0 < before.length
            ∧ ((before ++ c :: rest)[before.length - 1]?).map (fun d => d.coil + 1) = some c.coil) := by
      cases before using List.reverseRecOn with
      | nil => simp
      | append_singleton l d => simp [beq_eq_decide]
    have hlater := ih (before ++ [c])
    simp only [List.getLast?_append, List.getLast?_singleton, Option.some_or, Option.map_some, List.length_append,
      List.length_singleton, List.append_assoc, List.singleton_append] at hlater
    simp only [deriveList, makesTooMany_succ, hprev]
    rw [hmade]
    simp only [List.length_append, List.length_singleton] 
    rw [hlater]
    simp [derivedAt]

theorem deriveAxis_eq_derivation (d : AxisDefects) (a : Axis) (limit : Nat) : deriveAxis a d limit = d.derivation a limit := by
  have hwalk := deriveList_eq a limit d.listed []
  simp only [List.getLast?_nil, Option.map_none, List.length_nil, List.nil_append, Nat.not_lt_zero, decide_false] at hwalk
  unfold deriveAxis AxisDefects.derivation
  rw [hwalk]
  have hat (ci : Defect × Nat) : derivedAt d.listed a limit ci.1 ci.2
      = [⟨match ci.1.reason with | .openLoop => .coilOpen | .shortLoop => .coilShort, some a, some ci.1.coil, none⟩]
        ++ (if 0 < ci.2 ∧ (d.listed[ci.2 - 1]?).map (fun c => c.coil + 1) = some ci.1.coil then
              [⟨.adjacentDefects, some a, some (ci.1.coil - 1), some ci.1.coil⟩] else [])
        ++ (if ci.2 = limit then [⟨.tooManyDefects, some a, some ci.1.coil, none⟩] else []) := by
    simp only [derivedAt, defectFindings, decide_eq_true_eq]
    cases ci.1.reason <;> rfl
  refine congrArg₂ (· ++ ·) (List.flatMap_congr fun ci _ => hat ci) ?_
  simp


theorem any_isFail_configFindings (items : Items) (curves : Vector Curve 4) :
    (configFindings items curves).any Finding.isFail = true ↔ configFindings items curves ≠ [] := by
  rw [List.any_eq_true]
  constructor
  · rintro ⟨f, hf, -⟩
    exact List.ne_nil_of_mem hf
  · intro hne
    obtain ⟨f, hf⟩ := List.exists_mem_of_ne_nil _ hne
    exact ⟨f, hf, configFindings_isFail _ _ f hf⟩

/-- The findings of the derivation from the map of a state (R13). -/
def derived (s : State) : List Finding :=
  s.map.x.derivation .x s.items.maxDefects ++ s.map.y.derivation .y s.items.maxDefects

theorem deriveFindings_eq_derived : deriveFindings s.map s.items.maxDefects = derived s := by
  simp only [deriveFindings, deriveAxis_eq_derivation, derived]

/-- The report of a check that has made the findings `fs`. -/
def reportOf (outcome : CheckOutcome) (fs : List Finding) : Report :=
  { outcome := outcome, findings := fs.take 16, truncated := decide (16 < fs.length) }

theorem addAll_empty (outcome : CheckOutcome) (fs : List Finding) :
    ({ outcome := outcome, findings := [], truncated := false } : Report).addAll fs = reportOf outcome fs := by
  rw [Report.addAll_take _ _ (by simp)]
  simp [reportOf]

/-- What the start of a check leaves when it goes to engine state `e`: CHECK is raised by a failure alone. -/
def checkedTo (s : State) (e : Engine) (m : DefectMap) (r : Report) (failed : Bool) : State :=
  let raised (x : Port) : Port :=
    { x with latched := { x.latched with engine := true, check := x.latched.check || failed } }
  { s with engine := e, map := m, report := r, port0 := raised s.port0, port1 := raised s.port1 }

/-- Raising a condition on both ports, field by field. -/
theorem raiseBoth_eq (c : Cond) : s.raiseBoth c
    = { s with
        port0 := { s.port0 with latched := s.port0.latched.raise c }
        port1 := { s.port1 with latched := s.port1.latched.raise c } } := rfl

theorem startCheck_of_findings (h : configFindings s.items s.curves ≠ []) :
    s.startCheck = checkedTo s .halted s.map (reportOf .failed (configFindings s.items s.curves)) true := by
  unfold State.startCheck
  simp only [(any_isFail_configFindings _ _).mpr h, if_true, addAll_empty]
  simp [State.completeCheck, State.toEngine, checkedTo, raiseBoth_eq, Latched.raise, reportOf]

theorem startCheck_of_none (h : configFindings s.items s.curves = []) :
    s.startCheck = (({ s with report := reportOf .running [] } : State).raiseBoth .engine).startArrayCheck := by
  unfold State.startCheck
  simp only [h, addAll_empty]
  rfl

theorem startCheck_senses (h : configFindings s.items s.curves = []) (hs : s.sensesArray = true) :
    s.startCheck = checkedTo s (.checking SensePass.start) DefectMap.invalid (reportOf .running []) false := by
  rw [startCheck_of_none s h, State.startArrayCheck, if_pos (by simpa [State.sensesArray] using hs)]
  simp [checkedTo, raiseBoth_eq, Latched.raise]

/-- The engine state a check that passes at once goes to (R43). -/
def passedTo (s : State) : Engine := if s.run.isEmpty then .idle else (s.startFrame none).engine

/-- A derivation completes the check at once (R13, R43). -/
theorem completeCheck_eq (fs : List Finding) (failed : Bool) :
    (({ s with report := reportOf .running fs } : State).raiseBoth .engine).completeCheck failed
      = if failed then checkedTo s .halted s.map (reportOf .failed fs) true
        else checkedTo s (passedTo s) s.map (reportOf .passed fs) false := by
  unfold State.completeCheck
  cases failed with
  | true => simp [State.toEngine, checkedTo, raiseBoth_eq, Latched.raise, reportOf]
  | false =>
    cases hr : s.run.isEmpty with
    | true => simp [hr, State.toEngine, checkedTo, passedTo, raiseBoth_eq, Latched.raise, reportOf]
    | false =>
      simp [hr, State.enterScanning, State.startFrame, checkedTo, passedTo, raiseBoth_eq, Latched.raise, reportOf]
      rfl

theorem startCheck_derives (h : configFindings s.items s.curves = []) (hs : s.sensesArray = false) :
    s.startCheck
      = if (derived s).any Finding.isFail then checkedTo s .halted s.map (reportOf .failed (derived s)) true
        else checkedTo s (passedTo s) s.map (reportOf .passed (derived s)) false := by
  have hreport : (reportOf .running []).addAll (derived s) = reportOf .running (derived s) := addAll_empty .running _
  rw [startCheck_of_none s h, State.startArrayCheck, if_neg (by simpa [State.sensesArray] using hs)]
  simp only [State.raiseBoth_map, State.raiseBoth_items, deriveFindings_eq_derived, State.raiseBoth_report, hreport]
  exact completeCheck_eq s (derived s) _

theorem sensesArray_iff : s.sensesArray = true ↔ s.items.checkMode = .full ∨ s.map.valid = false := by
  simp [State.sensesArray]

theorem passedTo_scanning (hr : s.run.isEmpty = false) (h0 : s.slot0 = .free) (h1 : s.slot1 = .free) :
    passedTo s = .scanning
      { start := s.counter
        frame := some { t := 0, gating := if s.items.quietGating then .active else .suspended, stage := .guarding 100 }
        sweep := none } := by
  simp [passedTo, hr, State.startFrame, State.newFrame, State.trackingCount, State.trackPlan, slotReads, h0, h1,
    Slot.isTracking, Items.startGating, guardTime]

theorem passedTo_ne_halted : passedTo s ≠ .halted := by
  unfold passedTo
  split <;> simp [State.startFrame]

/-- Of a port, and of all that is no part of the check, the start of a check leaves what the statements say. -/
theorem checkedTo_frame (e : Engine) (m : DefectMap) (r : Report) (failed : Bool) (hf : failed = decide (e = .halted)) :
    let t := checkedTo s e m r failed
    (∀ q, t.port q = { s.port q with
      latched := { (s.port q).latched with
        engine := true, check := (s.port q).latched.check || decide (t.engine = .halted) } })
    ∧ t = { s with engine := t.engine, map := t.map, report := t.report, port0 := t.port0, port1 := t.port1 } := by
  subst hf
  exact ⟨fun q => by cases q <;> rfl, rfl⟩

/-- The check starts as the statements say (R40). -/
theorem startCheck_checkStarted : s.checkStarted s.startCheck := by
  by_cases hfound : configFindings s.items s.curves = []
  · by_cases hs : s.sensesArray = true
    · rw [startCheck_senses s hfound hs]
      obtain ⟨hport, hframe⟩ :=
        checkedTo_frame s (.checking SensePass.start) DefectMap.invalid (reportOf .running []) false rfl
      have hsenses := (sensesArray_iff s).mp hs
      exact ⟨fun h => absurd hfound h, fun _ _ => ⟨rfl, rfl, rfl⟩, fun _ h => absurd hsenses h,
        fun _ h => absurd hsenses h, hport, hframe⟩
    · have hsenses := mt (sensesArray_iff s).mpr hs
      rw [startCheck_derives s hfound (by simpa using hs)]
      by_cases hfail : (derived s).any Finding.isFail = true
      · rw [if_pos hfail]
        obtain ⟨hport, hframe⟩ := checkedTo_frame s .halted s.map (reportOf .failed (derived s)) true rfl
        refine ⟨fun h => absurd hfound h, fun _ h => absurd h hsenses, fun _ _ _ => ⟨rfl, rfl, rfl⟩, fun _ _ hall => ?_,
          hport, hframe⟩
        obtain ⟨f, hf, hfails⟩ := List.any_eq_true.mp hfail
        have hkind := (isFail_iff f).mp hfails
        exact ((hall f hf).elim hkind.1 hkind.2).elim
      · rw [if_neg hfail]
        obtain ⟨hport, hframe⟩ := checkedTo_frame s (passedTo s) s.map (reportOf .passed (derived s)) false
          (by simp [passedTo_ne_halted])
        refine ⟨fun h => absurd hfound h, fun _ h => absurd h hsenses, fun _ _ hex => ?_,
          fun _ _ _ => ⟨rfl, rfl, fun hr => if_pos hr, passedTo_scanning s⟩, hport, hframe⟩
        obtain ⟨f, hf, hkind⟩ := hex
        exact absurd (List.any_eq_true.mpr ⟨f, hf, (isFail_iff f).mpr hkind⟩) hfail
  · rw [startCheck_of_findings s hfound]
    obtain ⟨hport, hframe⟩ := checkedTo_frame s .halted s.map (reportOf .failed (configFindings s.items s.curves)) true rfl
    exact ⟨fun _ => ⟨rfl, rfl, rfl⟩, fun h => absurd h hfound, fun h => absurd h hfound, fun h => absurd h hfound, hport,
      hframe⟩

theorem erase_of_not_has (a : PortSet) (h : a.has p = false) : a.erase p = a := by
  cases p <;> (simp only [PortSet.has] at h; simp [PortSet.erase, ← h])

/-- A port is withdrawn as the statements say (R38). -/
theorem withdraw_withdrawn : s.withdrawn (s.withdraw p) p := by
  unfold State.withdraw State.withdrawn
  by_cases hin : (s.hold.has p || s.run.has p) = true
  · rw [if_pos hin]
    have hor : s.hold.has p = true ∨ s.run.has p = true := by simpa using hin
    cases he : s.engine with
    | halted =>
      by_cases hl : (s.hold.has p && (s.hold.erase p).isEmpty) = true
      · have hl' : s.hold.has p = true ∧ (s.hold.erase p).isEmpty = true := by simpa using hl
        simp only [hl, if_true]
        refine ⟨fun _ => startCheck_checkStarted _, fun r h => by simp at h, fun h => ?_⟩
        exact absurd ⟨trivial, hl'⟩ h
      · simp only [hl]
        refine ⟨fun h => absurd (by simpa using h.2) hl, fun r h => by simp at h, fun _ _ => rfl⟩
    | scanning r =>
      by_cases hl : (s.run.erase p).isEmpty = true
      · simp only [hl, if_true]
        refine ⟨fun h => by simp at h, fun r' h => ?_, fun _ h => ?_⟩
        · cases h.1
          exact stopFrames_stopped _ p r .stopped .idle
        · exact absurd ⟨rfl, hor, trivial⟩ (h r)
      · simp only [hl]
        exact ⟨fun h => by simp at h, fun r' h => by simp at h, fun _ _ => rfl⟩
    | checking _ => exact ⟨fun h => by simp at h, fun r h => by simp at h, fun _ _ => rfl⟩
    | idle => exact ⟨fun h => by simp at h, fun r h => by simp at h, fun _ _ => rfl⟩
  · rw [if_neg hin]
    obtain ⟨hh, hr⟩ : s.hold.has p = false ∧ s.run.has p = false := by simpa using hin
    refine ⟨fun h => ?_, fun r h => ?_, fun _ _ => ?_⟩
    · simp [hh] at h
    · simp [hh, hr] at h
    · rw [erase_of_not_has p _ hh, erase_of_not_has p _ hr]

end Sys2Proof.KindsAndCurves
end

section
/-!
PROOFS. PORT RESET (R157): the claims of a port released, and the port that asks for it left in its transaction (O19).
-/

namespace Sys2Proof.KindsAndCurves

open Sys2Proof.Machine

variable (s t u : State) (p q : PortId)

/-! ## The framing of a port through a withdrawal -/

/-- A port with its framing and MISO as they were. -/
def sameFraming (a b : Port) : Prop := b.framing = a.framing ∧ b.miso = a.miso

theorem sameFraming_refl (a : Port) : sameFraming a a := ⟨rfl, rfl⟩

theorem sameFraming_trans {a b c : Port} (h : sameFraming a b) (k : sameFraming b c) : sameFraming a c :=
  ⟨k.1.trans h.1, k.2.trans h.2⟩

theorem sameFraming_of_portAppended {x : Bool} {a b : Port} (h : portAppended x a b) : sameFraming a b := by
  unfold portAppended at h
  rw [h]
  exact ⟨rfl, rfl⟩

theorem raise_sameFraming (c : Cond) : sameFraming (s.port q) ((s.raise p c).port q) := by
  obtain rfl | rfl := PortId.eq_or_other p q
  · simp [sameFraming]
  · simp [sameFraming]

theorem setCursor_sameFraming (c : Cursor) : sameFraming (s.port q) ((s.setCursor p c).port q) := by
  obtain rfl | rfl := PortId.eq_or_other p q
  · simp [sameFraming]
  · simp [sameFraming]

theorem flushEntry_sameFraming (e : Fin 4) : sameFraming (s.port q) ((s.flushEntry e).port q) := by
  obtain h | ⟨g, -, -, h⟩ := s.flushEntry_cases e <;> rw [h]
  · exact sameFraming_refl _
  · exact (State.setEntry_port s q e _) ▸ raise_sameFraming (s.setEntry e _) g.owner q .capture

theorem flushRing_sameFraming : sameFraming (s.port q) (s.flushRing.port q) := by
  have hcursors (u : State) : sameFraming (u.port q) ((u.forPorts State.flushCursor).port q) :=
    sameFraming_trans (setCursor_sameFraming u .p0 q _) (setCursor_sameFraming _ .p1 q _)
  have hentries (u : State) : sameFraming (u.port q) ((u.forEntries State.flushEntry).port q) :=
    sameFraming_trans (sameFraming_trans (sameFraming_trans (flushEntry_sameFraming u q 0) (flushEntry_sameFraming _ q 1))
      (flushEntry_sameFraming _ q 2)) (flushEntry_sameFraming _ q 3)
  have hring : ({ s with ring := { s.ring with o := s.ring.w } } : State).port q = s.port q := by cases q <;> rfl
  have h := sameFraming_trans (hcursors { s with ring := { s.ring with o := s.ring.w } }) (hentries _)
  rw [hring] at h
  exact sameFraming_trans h (sameFraming_trans (raise_sameFraming _ .p0 q _) (raise_sameFraming _ .p1 q _))

/-- A request of the ring or of a cursor leaves the other port in its transaction. -/
theorem ringRequest_sameFraming {i : Instr} {f : State → Answer} (h : ringRequest i = some (p, f)) :
    sameFraming (s.port p.other) ((f s).state.port p.other) := by
  cases i <;> simp only [ringRequest, Option.some.injEq, Prod.mk.injEq, reduceCtorEq] at h
  case flush => exact h.2 ▸ flushRing_sameFraming s _
  all_goals
    obtain ⟨rfl, rfl⟩ := h
    simp only [State.answerRead, State.answerMark, State.answerRewind, State.answerCursorSetup]
    repeat' split
    all_goals simp [sameFraming]

theorem onRequest_sameFraming {f : State → Answer} (h : sameFraming (s.port p.other) ((f s).state.port p.other)) :
    sameFraming (s.port p.other) ((s.onRequest p f).port p.other) := by
  cases hr : s.receiving p with
  | false => rw [State.onRequest_not_receiving _ _ _ hr]; exact sameFraming_refl _
  | true => rw [State.onRequest_receiving _ _ _ hr, State.answered_other]; exact h

theorem readPlaceBegin_sameFraming : sameFraming (s.port p.other) ((s.readPlaceBegin p).port p.other) := by
  obtain h | ⟨left, resp, k, done, -, -, -, h⟩ := s.readPlaceBegin_cases p <;> rw [h]
  · exact sameFraming_refl _
  · simp [sameFraming, State.setResp]

theorem readRecordComplete_sameFraming : sameFraming (s.port p.other) ((s.readRecordComplete p).port p.other) := by
  obtain h | ⟨left, resp, k, done, pl, -, -, h⟩ := s.readRecordComplete_cases p <;> rw [h]
  · exact sameFraming_refl _
  · simp [sameFraming, State.setResp]

/-- A request that the bits of port `p` complete is one of `p`. -/
theorem complete_port {rx : Rx} {order : ByteOrder} {i : Instr} {f : State → Answer} (hi : rx.complete order p = some i)
    (hr : ringRequest i = some (q, f)) : q = p := by
  unfold Rx.complete at hi
  split at hi
  · split at hi
    · exact ringRequest_port p hi hr
    · cases hi
  · cases hi

/-- The event that a waiting command brings leaves the other port in its transaction. -/
theorem ringEvent_sameFraming {s t : State} {p : PortId} {i : Instr} (h : s.ringEvent i = some (p, t)) :
    sameFraming (s.port p.other) (t.port p.other) := by
  unfold State.ringEvent at h
  split at h
  · rename_i edge mosi
    simp only [State.edgeEvent, Option.map_eq_some_iff, Prod.mk.injEq] at h
    obtain ⟨u, hu, rfl, rfl⟩ := h
    split at hu
    · simp only [Option.map_eq_some_iff, Option.bind_eq_some_iff] at hu
      obtain ⟨⟨q, f⟩, ⟨j, hj, hi⟩, rfl⟩ := hu
      obtain rfl := complete_port _ _ hj hi
      have hupd := State.updPort_other s q
      exact hupd _ ▸ onRequest_sameFraming _ q (ringRequest_sameFraming _ q hi)
    · cases hu
    · cases hu; split
      · exact readRecordComplete_sameFraming s _
      · exact sameFraming_refl _
    · cases hu; split
      · exact readPlaceBegin_sameFraming s _
      · exact sameFraming_refl _
    all_goals cases hu
  · simp only [Option.some.injEq, Prod.mk.injEq] at h
    obtain ⟨rfl, rfl⟩ := h
    exact readPlaceBegin_sameFraming s _
  · simp only [Option.some.injEq, Prod.mk.injEq] at h
    obtain ⟨rfl, rfl⟩ := h
    exact readRecordComplete_sameFraming s _
  · simp only [Option.map_eq_some_iff, Prod.mk.injEq] at h
    obtain ⟨⟨q, f⟩, hf, rfl, rfl⟩ := h
    exact onRequest_sameFraming s _ (ringRequest_sameFraming s _ hf)


theorem takeFirst_sameFraming (busy : List PortId) (hp : p ∈ busy) (l : List Instr) :
    sameFraming (s.port p) ((State.takeFirst busy l s).port p) := by
  induction l generalizing s busy with
  | nil => exact sameFraming_refl _
  | cons i rest ih =>
    have hcount (u : State) (n : Nat) : ({ u with choices := n } : State).port p = u.port p := by cases p <;> rfl
    unfold State.takeFirst
    split
    · exact sameFraming_refl _
    · rename_i q t he
      split
      · exact sameFraming_refl _
      · rename_i hq
        split
        · have hne : p ≠ q := fun h => hq (by simpa [h] using hp)
          have hother : p = q.other := (PortId.eq_or_other q p).resolve_left hne
          have hevent := ringEvent_sameFraming he
          rw [← hother] at hevent
          have hlater := ih { t with choices := t.choices + 1 } (q :: busy) (List.mem_cons_of_mem _ hp)
          rw [hcount] at hlater
          exact sameFraming_trans hevent hlater
        · rw [hcount]; exact sameFraming_refl _

theorem stopFrames_sameFraming (r : Run) (cause : BreakCause) (e : Engine) :
    sameFraming (s.port p) ((s.stopFrames p r cause e).port p) := by
  have hclose (u : State) (i : SlotId) : sameFraming (u.port p) (((u.closeSlot i r.start).takeTogether [p]).port p) :=
    sameFraming_trans (sameFraming_of_portAppended (closeSlot_port u p r.start i))
      (takeFirst_sameFraming _ p [p] (List.mem_singleton_self p) _)
  have hfrom (u : State) : sameFraming (u.port p) ((u.toEngine e).port p) := by
    have he : ({ u with engine := e } : State).port p = u.port p := by cases p <;> rfl
    rw [State.toEngine, State.raiseBoth_port, he]
    exact ⟨rfl, rfl⟩
  exact sameFraming_trans (sameFraming_trans (sameFraming_trans (hclose s .s0) (hclose _ .s1))
    (sameFraming_of_portAppended (append_portLapped _ p _ _).2)) (hfrom _)

theorem withdraw_sameFraming : sameFraming (s.port p) ((s.withdraw p).port p) := by
  have hleft : ({ s with hold := s.hold.erase p, run := s.run.erase p } : State).port p = s.port p := by cases p <;> rfl
  obtain ⟨-, -, h⟩ | h | ⟨-, -, -, h⟩ | ⟨r, -, -, h⟩ := s.withdraw_cases p <;> rw [h]
  · exact sameFraming_refl _
  · exact hleft ▸ sameFraming_refl _
  · obtain ⟨-, -, -, -, hport, -⟩ := startCheck_checkStarted { s with hold := s.hold.erase p, run := s.run.erase p }
    rw [hport, hleft]
    exact ⟨rfl, rfl⟩
  · exact hleft ▸ stopFrames_sameFraming _ p r .stopped .idle

/-! ## The release of what a port owns (R29, R143, R145) -/

/-- Whether entry `e` is owned by port `p`. -/
def owns (s : State) (p : PortId) (e : Fin 4) : Bool := (s.entry e).any fun h => decide (h.owner = p)

/-- A CAPTURE READ of an entry of `gone` sends VOID fillers from its next place on (R143). -/
def releaseXfer (gone : Fin 4 → Bool) : Xfer → Xfer
  | .capture e live first k done cur => .capture e (live && !gone e) first k done cur
  | .read k done cur => .read k done cur
  | .none => .none

/-- The entries of `gone` released, `u` after. -/
def released (s u : State) (gone : Fin 4 → Bool) : Prop :=
  (∀ e, u.entry e = if gone e then none else s.entry e)
  ∧ (∀ q, u.port q = (s.port q).updXfer (releaseXfer gone))
  ∧ u = { s with entries := u.entries, port0 := u.port0, port1 := u.port1 }

theorem updXfer_response {x : Port} {left : Nat} {resp : Resp} {f : Xfer → Xfer} (h : x.framing = .response left resp) :
    x.updXfer f = { x with framing := .response left { resp with xfer := f resp.xfer } } := by
  simp [Port.updXfer, h]

/-- A port whose transfer the change leaves as it is stays as it is. -/
theorem updXfer_same {x : Port} {f : Xfer → Xfer}
    (h : ∀ left resp, x.framing = .response left resp → f resp.xfer = resp.xfer) : x.updXfer f = x := by
  unfold Port.updXfer
  split
  · rename_i left resp hf
    rw [h left resp hf, ← hf]
  all_goals rfl

theorem updXfer_id (x : Port) : x.updXfer (releaseXfer fun _ => false) = x := by
  refine updXfer_same fun _ resp _ => ?_
  cases resp.xfer <;> simp [releaseXfer]

theorem updXfer_releaseEntry (x : Port) (gone : Fin 4 → Bool) (e : Fin 4) :
    (x.updXfer (releaseXfer gone)).updXfer (Xfer.releaseEntry e) = x.updXfer (releaseXfer fun e' => gone e' || e' == e) := by
  have hx (y : Xfer) : (releaseXfer gone y).releaseEntry e = releaseXfer (fun e' => gone e' || e' == e) y := by
    cases y <;> simp [releaseXfer, Xfer.releaseEntry, Bool.and_assoc, bne]
  obtain ⟨framing, miso, settings, lapseTimer, latched, cursor⟩ := x
  cases framing <;> simp [Port.updXfer, hx]

theorem released_refl : released s s fun _ => false :=
  ⟨fun _ => by simp, fun q => (updXfer_id _).symm, rfl⟩

theorem released_releaseEntry {gone : Fin 4 → Bool} (h : released s u gone) (e : Fin 4) :
    released s (u.releaseEntry e) fun e' => gone e' || e' == e := by
  obtain ⟨hent, hport, hrest⟩ := h
  refine ⟨fun e' => ?_, fun q => ?_, ?_⟩
  · have : (u.releaseEntry e).entry e' = (u.setEntry e none).entry e' := by
      simp [State.releaseEntry, State.forPorts, State.entry]
    rw [this, State.entry_setEntry, hent]
    by_cases he : e' = e <;> simp [he]
  · rw [← updXfer_releaseEntry, ← hport]
    cases q <;> rfl
  · rw [hrest]
    rfl

/-- Entry `e` released where `p` owns it. -/
def releaseIfOwned (p : PortId) (e : Fin 4) (s : State) : State := if owns s p e then s.releaseEntry e else s

theorem releaseOwned_eq : s.releaseOwned p = s.forEntries (releaseIfOwned p) := by
  unfold State.releaseOwned
  congr 1
  funext e t
  unfold releaseIfOwned owns
  cases t.entry e <;> simp

theorem released_releaseIfOwned {gone : Fin 4 → Bool} (h : released s u gone) (e : Fin 4) (hg : gone e = false) :
    released s (releaseIfOwned p e u) fun e' => gone e' || (e' == e && owns s p e) := by
  have howns : owns u p e = owns s p e := by simp [owns, h.1, hg]
  unfold releaseIfOwned
  cases ho : owns s p e with
  | true => simpa [howns, ho] using released_releaseEntry s u h e
  | false => simpa [howns, ho] using h

theorem releaseOwned_released : released s (s.releaseOwned p) (owns s p) := by
  have h0 := released_releaseIfOwned s s p (released_refl s) 0 rfl
  have h1 := released_releaseIfOwned s _ p h0 1 (by simp)
  have h2 := released_releaseIfOwned s _ p h1 2 (by simp)
  have h3 := released_releaseIfOwned s _ p h2 3 (by simp)
  have hall : (fun e => ((((false || (e == 0 && owns s p 0)) || (e == 1 && owns s p 1)) || (e == 2 && owns s p 2))
      || (e == 3 && owns s p 3))) = owns s p := by
    funext e
    fin_cases e <;> simp
  rw [releaseOwned_eq]
  rwa [hall] at h3

theorem owns_iff (e : Fin 4) : owns s p e = true ↔ ∃ h, s.entry e = some h ∧ h.owner = p := by
  simp [owns, Option.any_eq_true]

/-- What a port owns is released as the statements say. -/
theorem release_claimsReleased : s.claimsReleased ((s.releaseOwned p).orphanCurves p) p := by
  obtain ⟨hent, hport, hrest⟩ := releaseOwned_released s p
  refine ⟨fun e => ?_, fun c => ?_, fun q => ?_, ?_⟩
  · have he : ((s.releaseOwned p).orphanCurves p).entry e = (s.releaseOwned p).entry e := rfl
    simp only [← owns_iff, he, hent]
    cases owns s p e <;> simp
  · have hc : (s.releaseOwned p).curves = s.curves := by rw [hrest]
    simp only [State.orphanCurves, hc, Fin.getElem_fin, Vector.getElem_map]
    unfold Curve.orphan
    cases s.curves[c.val] <;> rfl
  · have hq : ((s.releaseOwned p).orphanCurves p).port q = (s.port q).updXfer (releaseXfer (owns s p)) := by
      rw [← hport]
      cases q <;> rfl
    rw [hq]
    cases hf : (s.port q).framing with
    | response left resp =>
      dsimp only
      cases hx : resp.xfer with
      | capture e live first k done cur =>
        refine ⟨live && !owns s p e, ?_, ?_⟩
        · rw [← owns_iff]
          simp
        · rw [updXfer_response hf, hx, releaseXfer]
      | read k done cur => exact updXfer_same (fun _ r h => by cases hf.symm.trans h; rw [hx]; rfl)
      | none => exact updXfer_same (fun _ r h => by cases hf.symm.trans h; rw [hx]; rfl)
    | _ => exact updXfer_same (fun _ _ h => by cases hf.symm.trans h)
  · rw [hrest]
    rfl


/-! ## PORT RESET -/

/-- The port of a request that drops its claims stays in its transaction. -/
theorem dropClaims_sameFraming (hr : s.receiving p = true) : sameFraming (s.port p) ((s.dropClaims p).port p) := by
  have hw := withdraw_sameFraming s p
  obtain ⟨-, hport, -⟩ := releaseOwned_released (s.withdraw p) p
  have hreq : ∀ left resp, ((s.withdraw p).port p).framing ≠ .response left resp := by
    rw [hw.1]
    intro left resp h
    simp [State.receiving, h] at hr
  have hp : (s.dropClaims p).port p = ((s.withdraw p).releaseOwned p).port p := by cases p <;> rfl
  rw [hp, hport, updXfer_same fun left resp h => absurd h (hreq left resp)]
  exact hw

theorem updPort_raise_frame (f : Port → Port) (c : Cond) :
    let t := (s.updPort p f).raise p.other c
    t = { s with port0 := t.port0, port1 := t.port1 } := by cases p <;> rfl

/-- Settles O19: the steps of R157 are those of State.answerPortReset, each as the statements say it. -/
theorem portResetReturnsPort : Obligations.PortResetReturnsPort := by
  intro s p hr
  obtain ⟨hframing, hmiso⟩ := dropClaims_sameFraming s p hr
  let v := s.dropClaims p
  let reset := v.updPort p fun q => q.afterPortReset v.ring.w
  have hself : (reset.raise p.other .peer).port p = (v.port p).afterPortReset v.ring.w := by
    have h := reset.raise_other p.other .peer
    rw [PortId.other_other] at h
    rw [h, State.updPort_same]
  have hother : (reset.raise p.other .peer).port p.other
      = { v.port p.other with latched := { (v.port p.other).latched with peer := true } } := by
    rw [State.raise_same, State.updPort_other]
    rfl
  refine ⟨s.withdraw p, v, reset.raise p.other .peer, withdraw_withdrawn s p, release_claimsReleased (s.withdraw p) p, ?_, ?_,
    hother, ?_, ?_⟩
  · exact congrArg Host.Outcome.next (State.onRequest_receiving s p _ hr)
  · rw [hself, Port.afterPortReset, hframing, hmiso]
    rfl
  · exact updPort_raise_frame v p _ .peer
  · rw [State.attn, hself]
    simp [CondSet.meets, Latched.meets, Port.afterPortReset, Settings.reset]

end Sys2Proof.KindsAndCurves
end

section
/-!
PROOFS. What leaves the configuration items and the curves as they are outside HALTED (R46), but for a load owner (R29) (O30).
-/

namespace Sys2Proof.KindsAndCurves

open Sys2Proof.Machine

variable (s t u : State) (p q : PortId) (e : Fin 4)

/-! ## Operations that touch neither an item nor a curve -/

/-- Every item and every curve as it was. -/
def keepsConfig (s t : State) : Prop := t.items = s.items ∧ t.curves = s.curves

theorem keepsConfig_refl : keepsConfig s s := ⟨rfl, rfl⟩

theorem keepsConfig_trans {s t u : State} (h : keepsConfig s t) (k : keepsConfig t u) : keepsConfig s u :=
  ⟨k.1.trans h.1, k.2.trans h.2⟩

theorem keepsConfig_of_recordsOnly {s t : State} (h : recordsOnly s t) : keepsConfig s t := by
  unfold recordsOnly at h
  rw [h]
  exact ⟨rfl, rfl⟩

theorem keepsConfig_of_ringOnly {s t : State} (h : s.ringOnly t) : keepsConfig s t := by
  unfold State.ringOnly at h
  rw [h]
  exact ⟨rfl, rfl⟩

theorem keepsConfig_ite {c : Prop} [Decidable c] {s t u : State} (ht : keepsConfig s t) (hu : keepsConfig s u) :
    keepsConfig s (if c then t else u) := by
  split <;> assumption

theorem keepsConfig_setSlot {s t : State} (i : SlotId) (x : Slot) (h : keepsConfig s t) : keepsConfig s (t.setSlot i x) := by
  simpa [keepsConfig] using h

theorem keepsConfig_setRun {s t : State} (r : Run) (h : keepsConfig s t) : keepsConfig s (t.setRun r) := h

theorem keepsConfig_toEngine {s t : State} (e : Engine) (h : keepsConfig s t) : keepsConfig s (t.toEngine e) := h

theorem keepsConfig_setPort (x : Port) : keepsConfig s (s.setPort p x) := by simp [keepsConfig]

theorem keepsConfig_raise (c : Cond) : keepsConfig s (s.raise p c) := by simp [keepsConfig]

theorem keepsConfig_takeTogether (busy : List PortId) : keepsConfig s (s.takeTogether busy) := by
  obtain ⟨n, h⟩ := s.takeTogether_ringOnly busy
  exact keepsConfig_trans (t := { s with choices := n }) ⟨rfl, rfl⟩ (keepsConfig_of_ringOnly h)

theorem keepsConfig_forEntries (f : Fin 4 → State → State) (hf : ∀ e u, keepsConfig u (f e u)) :
    keepsConfig s (s.forEntries f) :=
  keepsConfig_trans (keepsConfig_trans (keepsConfig_trans (hf 0 _) (hf 1 _)) (hf 2 _)) (hf 3 _)

/-! ## Captures -/

theorem keepsConfig_triggerHeld (h : Held) : keepsConfig s (s.triggerHeld e h) := by
  unfold State.triggerHeld
  split
  · dsimp only
    split <;> simp [keepsConfig]
  · exact keepsConfig_refl s

theorem keepsConfig_triggerArmed (g : Trigger) : keepsConfig s (State.triggerArmed g e s) := by
  unfold State.triggerArmed
  split
  · split
    · exact keepsConfig_triggerHeld s e _
    · exact keepsConfig_refl s
  · exact keepsConfig_refl s

theorem keepsConfig_startCapture (g : Trigger) (first : Word) (second : Half) (drive : Byte) (bank : Fin 8) :
    keepsConfig s (s.startCapture p g first second drive e bank) := by
  cases g with
  | immediate => exact keepsConfig_triggerHeld s e _
  | sync =>
    unfold State.startCapture
    dsimp only
    split <;> exact ⟨rfl, rfl⟩
  | contact => exact ⟨rfl, rfl⟩
  | absolute => exact ⟨rfl, rfl⟩

theorem keepsConfig_captureCopy : keepsConfig s (s.captureCopy e) := by
  obtain h | ⟨g, w, -, -, -, ⟨r, -, h⟩ | ⟨-, h⟩⟩ := s.captureCopy_cases e <;> rw [h]
  · exact keepsConfig_refl s
  · unfold State.afterCopy
    split <;> simp [keepsConfig]
  · exact keepsConfig_raise (s.setEntry e _) _ _

/-! ## The slots and the sweep -/

theorem keepsConfig_goodFrame (i : SlotId) (t : Track) (sm : Sample) (time : Time) :
    keepsConfig s (s.goodFrame i t sm time) := by
  have hcontact (u : State) : keepsConfig u u.contactEvent :=
    keepsConfig_forEntries u _ fun e v => keepsConfig_triggerArmed v e .contact
  have hraised (u : State) (hu : keepsConfig s u) : keepsConfig s (if t.first then u.raiseBoth .prox else u) :=
    keepsConfig_ite hu hu
  have happ (body : RecordBody) := hraised _ (keepsConfig_of_recordsOnly (recordsOnly_append s time body))
  exact keepsConfig_setSlot i _ (keepsConfig_ite (keepsConfig_trans (happ _) (hcontact _)) (happ _))

theorem keepsConfig_leave (i : SlotId) (t : Track) (time : Time) : keepsConfig s (s.leave i t time) := by
  obtain ⟨-, h⟩ | ⟨v, -, -, h⟩ := s.leave_cases time i t <;> rw [h] <;> simp [keepsConfig]

theorem keepsConfig_faintFrame (i : SlotId) (t : Track) (sm : Sample) (time : Time) :
    keepsConfig s (s.faintFrame i t sm time) := by
  unfold State.faintFrame
  refine keepsConfig_ite (keepsConfig_leave s i t time) ?_
  split <;> simp [keepsConfig]

theorem keepsConfig_solveSlot (got : List (TrackRead × Reading)) (time : Time) (i : SlotId) :
    keepsConfig s (s.solveSlot got time i) := by
  obtain ⟨-, h⟩ | ⟨t, -, ⟨-, h⟩ | ⟨-, h⟩⟩ := s.solveSlot_cases time i got <;> rw [h]
  · exact keepsConfig_refl s
  · exact keepsConfig_goodFrame s i t _ time
  · exact keepsConfig_faintFrame s i t _ time

theorem keepsConfig_evaluateSweep (sw : Sweep) : keepsConfig s (s.evaluateSweep sw) := by
  unfold State.evaluateSweep
  generalize s.candidates sw.list sw.got = cs
  induction cs generalizing s with
  | nil => exact keepsConfig_refl s
  | cons c rest ih =>
    refine keepsConfig_trans ?_ (ih (s.allocate c))
    unfold State.allocate
    split <;> simp [keepsConfig]

/-! ## The engine -/

theorem keepsConfig_startCheck : keepsConfig s s.startCheck := by
  obtain ⟨-, -, -, -, -, hframe⟩ := startCheck_checkStarted s
  rw [hframe]
  exact ⟨rfl, rfl⟩

theorem keepsConfig_stopFrames (r : Run) (cause : BreakCause) (e : Engine) : keepsConfig s (s.stopFrames p r cause e) := by
  have hclose (u : State) (i : SlotId) : keepsConfig u ((u.closeSlot i r.start).takeTogether [p]) :=
    keepsConfig_trans (keepsConfig_of_recordsOnly (recordsOnly_closeSlot u r.start i)) (keepsConfig_takeTogether _ _)
  have hclosed := keepsConfig_trans (hclose s .s0) (hclose _ .s1)
  have hframes : keepsConfig s (s.closeFrames p r.start cause) :=
    keepsConfig_trans hclosed (keepsConfig_of_recordsOnly (recordsOnly_append _ _ (.brk cause)))
  exact keepsConfig_toEngine e hframes

theorem keepsConfig_holdEffect : keepsConfig s (s.holdEffect p) := by
  unfold State.holdEffect
  split
  · exact ⟨rfl, rfl⟩
  · exact ⟨rfl, rfl⟩
  · exact ⟨rfl, rfl⟩
  · exact keepsConfig_stopFrames { s with hold := s.hold.insert p } p _ _ _

theorem keepsConfig_releaseEffect : keepsConfig s (s.releaseEffect p) :=
  keepsConfig_ite (keepsConfig_startCheck { s with hold := s.hold.erase p }) ⟨rfl, rfl⟩

theorem keepsConfig_runEffect : keepsConfig s (s.runEffect p) := by
  unfold State.runEffect
  split <;> exact ⟨rfl, rfl⟩

theorem keepsConfig_stopEffect : keepsConfig s (s.stopEffect p) := by
  unfold State.stopEffect
  split
  · exact keepsConfig_ite (keepsConfig_stopFrames { s with run := s.run.erase p } p _ _ _) ⟨rfl, rfl⟩
  all_goals exact ⟨rfl, rfl⟩

theorem keepsConfig_withdraw : keepsConfig s (s.withdraw p) := by
  obtain ⟨-, -, h⟩ | h | ⟨-, -, -, h⟩ | ⟨r, -, -, h⟩ := s.withdraw_cases p <;> rw [h]
  · exact keepsConfig_refl s
  · exact ⟨rfl, rfl⟩
  · exact keepsConfig_startCheck { s with hold := s.hold.erase p, run := s.run.erase p }
  · exact keepsConfig_stopFrames { s with hold := s.hold.erase p, run := s.run.erase p } p r _ _

/-! ## The scan -/

theorem keepsConfig_classifyCoil (pass : SensePass) (level : Nat) : keepsConfig s (s.classifyCoil pass level).1 := by
  unfold State.classifyCoil
  split <;> exact ⟨rfl, rfl⟩

theorem keepsConfig_completeCheck (failed : Bool) : keepsConfig s (s.completeCheck failed) := by
  obtain ⟨-, h⟩ | ⟨-, -, h⟩ | ⟨-, -, h⟩ := s.completeCheck_cases failed <;> rw [h] <;> exact ⟨rfl, rfl⟩

theorem keepsConfig_coilSensingEnd (level : Nat) : keepsConfig s (s.coilSensingEnd level) := by
  unfold State.coilSensingEnd
  split
  · rename_i pass _
    have hc := keepsConfig_classifyCoil s pass level
    refine keepsConfig_ite ?_ (keepsConfig_refl s)
    split
    · exact hc
    · exact keepsConfig_trans hc (keepsConfig_completeCheck { (s.classifyCoil pass level).1 with map := _ } _)
  all_goals exact keepsConfig_refl s

theorem keepsConfig_trackingEnd (r : Run) (f : Frame) (cur : TrackRead) (rest : List TrackRead)
    (got : List (TrackRead × Reading)) (reading : Reading) : keepsConfig s (s.trackingEnd r f cur rest got reading) := by
  unfold State.trackingEnd
  split
  · exact ⟨rfl, rfl⟩
  · have hs0 := keepsConfig_solveSlot s (got ++ [(cur, reading)]) r.start .s0
    have htaken := keepsConfig_trans hs0 (keepsConfig_takeTogether _ [])
    exact keepsConfig_trans htaken (keepsConfig_solveSlot _ (got ++ [(cur, reading)]) r.start .s1)

theorem keepsConfig_searchEnd (r : Run) (f : Frame) (budget : Nat) (sw : Sweep) (reading : Reading) :
    keepsConfig s (s.searchEnd r f budget sw reading) := by
  unfold State.searchEnd
  dsimp only
  split
  · exact keepsConfig_setRun _ (keepsConfig_evaluateSweep s _)
  · exact keepsConfig_ite ⟨rfl, rfl⟩ ⟨rfl, rfl⟩

theorem keepsConfig_readingEnd (reading : Reading) : keepsConfig s (s.readingEnd reading) := by
  unfold State.readingEnd
  repeat' split
  · exact keepsConfig_trackingEnd s _ _ _ _ _ reading
  · exact keepsConfig_searchEnd s _ _ _ _ reading
  all_goals exact keepsConfig_refl s

theorem keepsConfig_guardExpiry : keepsConfig s s.guardExpiry := by
  have hend (r : Run) (f : Frame) : keepsConfig s (s.endGuard r f) := by
    unfold State.endGuard
    refine keepsConfig_ite ⟨rfl, rfl⟩ ?_
    split
    · exact ⟨rfl, rfl⟩
    · exact keepsConfig_ite ⟨rfl, rfl⟩ ⟨rfl, rfl⟩
  unfold State.guardExpiry
  repeat' split
  · exact hend _ _
  all_goals exact keepsConfig_refl s

theorem keepsConfig_frameStart : keepsConfig s s.frameStart := by
  unfold State.frameStart
  repeat' split
  all_goals exact ⟨rfl, rfl⟩

theorem keepsConfig_quietRise : keepsConfig s s.quietRise := by
  unfold State.quietRise
  dsimp only
  repeat' split
  all_goals exact ⟨rfl, rfl⟩

theorem keepsConfig_quietTimerExpiry : keepsConfig s s.quietTimerExpiry := by
  unfold State.quietTimerExpiry
  repeat' split
  all_goals exact ⟨rfl, rfl⟩

end Sys2Proof.KindsAndCurves
end

section
/-!
PROOFS. Every command leaves the configuration items and the curves as they are outside HALTED, full reset and the load owner of a
curve apart (R29, R46) (O30).
-/

namespace Sys2Proof.KindsAndCurves

open Sys2Proof.Machine

variable (s t u : State) (p : PortId)

/-- Every item as it was, and every curve but for a load owner that port losing its claims takes (R29). -/
def keepsConfigButOwner (s t : State) : Prop :=
  t.items = s.items ∧ (t.curves = s.curves ∨ ∃ p, t.curves = s.curves.map (Curve.orphan p))

theorem keepsConfig.butOwner {s t : State} (h : keepsConfig s t) : keepsConfigButOwner s t := ⟨h.1, .inl h.2⟩

theorem keepsConfigButOwner_trans {s t u : State} (h : keepsConfig s t) (k : keepsConfigButOwner t u) :
    keepsConfigButOwner s u := by
  unfold keepsConfigButOwner at *
  rwa [h.1, h.2] at k

theorem keepsConfigButOwner_trans_right {s t u : State} (h : keepsConfigButOwner s t) (k : keepsConfig t u) :
    keepsConfigButOwner s u := by
  unfold keepsConfigButOwner at *
  rwa [k.1, k.2]

theorem keepsConfigButOwner_onRequest {f : State → Answer} (h : keepsConfigButOwner s (f s).state) :
    keepsConfigButOwner s (s.onRequest p f) := by
  unfold State.onRequest
  split
  · exact keepsConfigButOwner_trans_right h (keepsConfig_setPort _ p _)
  all_goals exact (keepsConfig_refl s).butOwner

theorem keepsConfigButOwner_dropClaims : keepsConfigButOwner s (s.dropClaims p) := by
  obtain ⟨-, -, hrest⟩ := releaseOwned_released (s.withdraw p) p
  refine keepsConfigButOwner_trans (keepsConfig_withdraw s p) ⟨?_, .inr ⟨p, ?_⟩⟩
  · show ((s.withdraw p).releaseOwned p).items = _
    rw [hrest]
  · show ((s.withdraw p).releaseOwned p).curves.map _ = _
    rw [hrest]

/-! ## Requests -/

theorem answerConfigWrite_state (id : Byte) (value : Half) (hne : s.engine ≠ .halted) :
    (s.answerConfigWrite p id value).state = s := by
  simp [State.answerConfigWrite, hne]

theorem answerConfigRead_state (id : Byte) : (s.answerConfigRead id).state = s := by
  unfold State.answerConfigRead
  split <;> rfl

theorem answerCurveRead_state (number : Byte) : (s.answerCurveRead number).state = s := by
  unfold State.answerCurveRead
  split <;> rfl

theorem answerCurveBegin_state (number count : Byte) (hne : s.engine ≠ .halted) :
    (s.answerCurveBegin p number count).state = s := by
  simp [State.answerCurveBegin, hne]

theorem answerCurveKnot_state (number : Byte) (input output : Half) (hne : s.engine ≠ .halted) :
    (s.answerCurveKnot p number input output).state = s := by
  simp [State.answerCurveKnot, hne]

theorem keepsConfig_answerCapture (trigger : Byte) (first : Word) (second : Half) (drive : Byte) :
    keepsConfig s (s.answerCapture p trigger first second drive).state := by
  unfold State.answerCapture
  repeat' split
  · exact keepsConfig_refl s
  · exact keepsConfig_refl s
  · exact keepsConfig_startCapture s p _ _ _ _ _ _
  · exact keepsConfig_refl s

theorem keepsConfig_answerCaptureRead (entry n fromStart : Byte) :
    keepsConfig s (s.answerCaptureRead p entry n fromStart).state := by
  unfold State.answerCaptureRead
  dsimp only
  repeat' split
  all_goals exact ⟨rfl, rfl⟩

theorem keepsConfig_answerCaptureRelease (entry : Byte) : keepsConfig s (s.answerCaptureRelease p entry).state := by
  unfold State.answerCaptureRelease
  dsimp only
  repeat' split
  all_goals exact ⟨rfl, rfl⟩

theorem keepsConfig_answerPortSetup (format order lapse : Byte) (enable : Half) :
    keepsConfig s (s.answerPortSetup p format order lapse enable).state := by
  unfold State.answerPortSetup
  split
  · exact keepsConfig_setPort s p _
  · exact keepsConfig_refl s

theorem keepsConfig_answerRelease : keepsConfig s (s.answerRelease p).state := by
  unfold State.answerRelease
  split
  · exact keepsConfig_releaseEffect s p
  · exact keepsConfig_refl s

theorem keepsConfigButOwner_answerPortReset : keepsConfigButOwner s (s.answerPortReset p).state :=
  keepsConfigButOwner_trans_right (keepsConfigButOwner_dropClaims s p)
    (keepsConfig_trans (keepsConfig_setPort _ p _) (keepsConfig_raise _ _ _))

/-- A complete request keeps the configuration outside HALTED. -/
theorem runRequest_keepsConfig (i : Instr) (h : runRequest i s = .next t) (hne : s.engine ≠ .halted) :
    keepsConfigButOwner s t := by
  have hring (p : PortId) (f : State → Answer) (hf : ringRequest i = some (p, f)) : keepsConfigButOwner s t := by
    cases (runRequest_ringRequest s p hf).symm.trans h
    exact (keepsConfig_of_ringOnly (s.onRequest_ringOnly p (ringRequest_ringOnly s p hf))).butOwner
  have hreq (p : PortId) (f : State → Answer) (ht : runRequest i s = .next (s.onRequest p f))
      (hf : keepsConfigButOwner s (f s).state) : keepsConfigButOwner s t := by
    cases ht.symm.trans h
    exact keepsConfigButOwner_onRequest s p hf
  have hsame (p : PortId) (f : State → Answer) (ht : runRequest i s = .next (s.onRequest p f)) (hf : (f s).state = s) :
      keepsConfigButOwner s t := by
    refine hreq p f ht ?_
    rw [hf]
    exact (keepsConfig_refl s).butOwner
  have hnone (ht : runRequest i s = .next s) : keepsConfigButOwner s t := by
    cases ht.symm.trans h
    exact (keepsConfig_refl s).butOwner
  cases i with
  | status p => exact hsame p _ rfl rfl
  | read p n => exact hring p _ rfl
  | mark p => exact hring p _ rfl
  | rewind p => exact hring p _ rfl
  | cursorSetup p mode ready margin => exact hring p _ rfl
  | portSetup p format order lapse enable => exact hreq p _ rfl (keepsConfig_answerPortSetup s p _ _ _ _).butOwner
  | ack p conds => exact hreq p _ rfl (keepsConfig_setPort s p _).butOwner
  | hold p => exact hreq p _ rfl (keepsConfig_holdEffect s p).butOwner
  | release p => exact hreq p _ rfl (keepsConfig_answerRelease s p).butOwner
  | run p => exact hreq p _ rfl (keepsConfig_runEffect s p).butOwner
  | stop p => exact hreq p _ rfl (keepsConfig_stopEffect s p).butOwner
  | flush p => exact hring p _ rfl
  | portReset p => exact hreq p _ rfl (keepsConfigButOwner_answerPortReset s p)
  | configWrite p id value => exact hsame p _ rfl (answerConfigWrite_state s p id value hne)
  | configRead p id => exact hsame p _ rfl (answerConfigRead_state s id)
  | curveBegin p number count => exact hsame p _ rfl (answerCurveBegin_state s p number count hne)
  | curveKnot p number input output => exact hsame p _ rfl (answerCurveKnot_state s p number input output hne)
  | curveRead p number => exact hsame p _ rfl (answerCurveRead_state s number)
  | checkReport p => exact hsame p _ rfl rfl
  | capture p trigger first second drive => exact hreq p _ rfl (keepsConfig_answerCapture s p _ _ _ _).butOwner
  | captureStatus p => exact hsame p _ rfl rfl
  | captureRead p entry n fromStart => exact hreq p _ rfl (keepsConfig_answerCaptureRead s p _ _ _).butOwner
  | captureRelease p entry => exact hreq p _ rfl (keepsConfig_answerCaptureRelease s p _).butOwner
  | badCommand p code =>
    by_cases hc : commandCodes.contains code = true
    · exact hnone (by simp only [runRequest, execBadCommand, hc, if_true])
    · exact hsame p _ (by simp only [runRequest, execBadCommand, hc]; rfl) rfl
  | _ => exact hnone rfl

/-! ## Events -/

theorem keepsConfig_readPlaceBegin : keepsConfig s (s.readPlaceBegin p) :=
  keepsConfig_of_ringOnly (s.readPlaceBegin_ringOnly p)

theorem keepsConfig_readRecordComplete : keepsConfig s (s.readRecordComplete p) :=
  keepsConfig_of_ringOnly (s.readRecordComplete_ringOnly p)

theorem keepsConfig_captureReadPlaceBegin : keepsConfig s (s.captureReadPlaceBegin p) := by
  unfold State.captureReadPlaceBegin
  repeat' split
  · exact keepsConfig_setPort s p _
  all_goals exact keepsConfig_refl s

theorem keepsConfig_captureReadRecordComplete : keepsConfig s (s.captureReadRecordComplete p) := by
  have hadvance (e : Fin 4) (live : Bool) : keepsConfig s (s.advanceRead e live) := by
    unfold State.advanceRead
    split <;> exact ⟨rfl, rfl⟩
  unfold State.captureReadRecordComplete
  repeat' split
  · exact keepsConfig_trans (hadvance _ _) (keepsConfig_setPort _ p _)
  all_goals exact keepsConfig_refl s

theorem execSclkEdge_keepsConfig (edge : ClockEdge) (mosi : Bool) (h : execSclkEdge p edge mosi s = .next t)
    (hne : s.engine ≠ .halted) : keepsConfigButOwner s t := by
  unfold execSclkEdge at h
  split at h
  · rename_i left rx hf
    have hshift (f : Port → Port) : keepsConfig s (s.updPort p f) := keepsConfig_setPort s p _
    unfold State.requestRise at h
    dsimp only at h
    split at h
    · exact keepsConfigButOwner_trans (hshift _) (runRequest_keepsConfig _ t _ h (by simpa using hne))
    · cases h
      exact (hshift _).butOwner
  · cases h
    exact (keepsConfig_setPort s p _).butOwner
  · cases h
    refine keepsConfig.butOwner (keepsConfig_ite ?_ (keepsConfig_setPort s p _))
    exact keepsConfig_trans (keepsConfig_readRecordComplete s p) (keepsConfig_captureReadRecordComplete _ p)
  · cases h
    refine keepsConfig.butOwner (keepsConfig_trans (keepsConfig_ite ?_ (keepsConfig_refl s)) (keepsConfig_setPort _ p _))
    exact keepsConfig_trans (keepsConfig_readPlaceBegin s p) (keepsConfig_captureReadPlaceBegin _ p)
  all_goals
    cases h
    exact (keepsConfig_refl s).butOwner

theorem keepsConfigButOwner_lapseTimerExpiry : keepsConfigButOwner s (s.lapseTimerExpiry p) := by
  unfold State.lapseTimerExpiry
  split
  · have hstop (f : Port → Port) : keepsConfig s (s.updPort p f) := keepsConfig_setPort s p _
    have hlapse (u : State) : keepsConfigButOwner u (u.lapse p) :=
      keepsConfigButOwner_trans_right (keepsConfigButOwner_dropClaims u p)
        (keepsConfig_trans (keepsConfig_raise _ p _) (keepsConfig_raise _ p.other _))
    dsimp only
    split
    · exact keepsConfigButOwner_trans (hstop _) (hlapse _)
    · exact (hstop _).butOwner
  · exact (keepsConfig_refl s).butOwner

theorem keepsConfig_csFall : keepsConfig s (s.csFall p) := by
  unfold State.csFall
  split
  · exact keepsConfig_setPort s p _
  all_goals exact keepsConfig_refl s

theorem keepsConfig_abandon : keepsConfig s (s.abandon p) := by
  unfold State.abandon
  split
  · exact keepsConfig_setPort s p _
  · exact keepsConfig_setPort s p _
  all_goals exact keepsConfig_refl s

/-- A request given as one command is the request clocked in. -/
theorem exec_eq_runRequest (i : Instr) (hp : i.requestPort = some p) : exec i s = runRequest i s := by
  cases i <;> simp only [Instr.requestPort, reduceCtorEq] at hp
  all_goals rfl

/-- Every command but a full reset keeps the configuration outside HALTED. -/
theorem exec_keepsConfig (i : Instr) (h : exec i s = .next t) (hne : s.engine ≠ .halted)
    (hreset : ∀ a b c d e, i ≠ .fullReset a b c d e) : keepsConfigButOwner s t := by
  have hkeep {u : State} (hu : exec i s = .next u) (hk : keepsConfigButOwner s u) : keepsConfigButOwner s t := by
    cases hu.symm.trans h
    exact hk
  have hrequest (p : PortId) (hp : i.requestPort = some p) : keepsConfigButOwner s t :=
    runRequest_keepsConfig s t i ((exec_eq_runRequest s p i hp).symm.trans h) hne
  cases i with
  | fullReset a b c d e => exact absurd rfl (hreset a b c d e)
  | csFall p => exact hkeep rfl (keepsConfig_csFall s p).butOwner
  | csRise p => exact hkeep rfl (keepsConfig_setPort s p _).butOwner
  | transactionAbandoned p => exact hkeep rfl (keepsConfig_abandon s p).butOwner
  | lapseTimerExpiry p => exact hkeep rfl (keepsConfigButOwner_lapseTimerExpiry s p)
  | frameStart => exact hkeep rfl (keepsConfig_frameStart s).butOwner
  | readingEnd amplitude phase => exact hkeep rfl (keepsConfig_readingEnd s _).butOwner
  | guardExpiry => exact hkeep rfl (keepsConfig_guardExpiry s).butOwner
  | coilSensingEnd level => exact hkeep rfl (keepsConfig_coilSensingEnd s _).butOwner
  | quietRise => exact hkeep rfl (keepsConfig_quietRise s).butOwner
  | quietFall => exact hkeep rfl ⟨rfl, .inl rfl⟩
  | quietTimerExpiry => exact hkeep rfl (keepsConfig_quietTimerExpiry s).butOwner
  | tsyncFall =>
    exact hkeep rfl (keepsConfig_forEntries s _ fun e u => keepsConfig_triggerArmed u e .sync).butOwner
  | tsyncPulseExpiry => exact hkeep rfl (keepsConfig_ite (t := { s with pulse := none }) ⟨rfl, rfl⟩ (keepsConfig_refl s)).butOwner
  | captureCopy e => exact hkeep rfl (keepsConfig_captureCopy s e).butOwner
  | readPlaceBegin p => exact hkeep rfl (keepsConfig_readPlaceBegin s p).butOwner
  | readRecordComplete p => exact hkeep rfl (keepsConfig_readRecordComplete s p).butOwner
  | captureReadPlaceBegin p => exact hkeep rfl (keepsConfig_captureReadPlaceBegin s p).butOwner
  | captureReadRecordComplete p => exact hkeep rfl (keepsConfig_captureReadRecordComplete s p).butOwner
  | sclkEdge p edge mosi => exact execSclkEdge_keepsConfig s t p edge mosi h hne
  | timestampCounterTick => exact hkeep rfl ⟨rfl, .inl rfl⟩
  | _ => exact hrequest _ rfl

/-- Settles O30: outside HALTED every command keeps the items, and a curve but for its load owner. -/
theorem configurationFixedOutsideHalted : Obligations.ConfigurationFixedOutsideHalted := by
  intro i s t h hne hreset
  obtain ⟨hitems, hcurves⟩ := exec_keepsConfig s t i h hne hreset
  refine ⟨hitems, fun c => ?_⟩
  obtain hc | ⟨p, hc⟩ := hcurves
  · exact .inl (by rw [hc])
  · cases p
    · exact .inr (.inl (by simp [hc]))
    · exact .inr (.inr (by simp [hc]))

end Sys2Proof.KindsAndCurves
end

section
/-!
PROOFS. The search that a frame takes up at the end of its guard (R19, R52, R53) (O43).
-/

namespace Sys2Proof.KindsAndCurves

open Sys2Proof.Machine

variable (s : State) (r : Run) (f : Frame)

theorem isTracking_iff (x : Slot) : x.isTracking = true ↔ x ≠ .free := by
  cases x <;> simp [Slot.isTracking]

theorem kindTracked_iff (k : Fin 4) : s.kindTracked k = true
    ↔ (∃ t, s.slot0 = .tracking t ∧ t.kind = k) ∨ (∃ t, s.slot1 = .tracking t ∧ t.kind = k) := by
  have hslot (x : Slot) : x.tracks k = true ↔ ∃ t, x = .tracking t ∧ t.kind = k := by
    cases x <;> simp [Slot.tracks]
  rw [State.kindTracked, Bool.or_eq_true, hslot, hslot]

/-- The channels searched are those of the ends of the enabled kinds that no slot tracks (R19, R53). -/
theorem mem_searchList (c : Chan) : c ∈ s.searchList
    ↔ ∃ k : Fin 4, (s.items.kinds[k]).enabled = true ∧ ¬ s.kindTracked k = true
        ∧ ((s.items.kinds[k]).tip = c ∨ (s.items.kinds[k]).eraser = some c) := by
  simp [State.searchList, Items.kind, and_assoc]

/-- They stand in ascending order (R53). -/
theorem searchList_pairwise : s.searchList.Pairwise (· < ·) :=
  (List.pairwise_lt_finRange 8).filter _

/-- A reading that is due begins at once unless gating is ACTIVE and QUIET low (R54). -/
theorem duePath_eq (g : Gating) :
    s.duePath g = if g = .active ∧ s.quiet = false then .waiting s.counter else .reading s.items.dwell := by
  unfold State.duePath
  cases g <;> cases s.quiet <;> simp

/-- A guard that is over ends as `State.endGuard` has it. -/
theorem exec_guardExpiry (he : s.engine = .scanning r) (hf : r.frame = some f) (hg : f.stage = .guarding 0) :
    exec .guardExpiry s = .next (s.endGuard r f) := by
  show Host.Outcome.next s.guardExpiry = _
  simp only [State.guardExpiry, he, hf, hg]

/-- With both slots TRACKING the sweep is abandoned and the frame ends (R52). -/
theorem endGuard_full (h : s.slot0 ≠ .free ∧ s.slot1 ≠ .free) :
    s.endGuard r f = s.setRun { r with frame := none, sweep := none } := by
  rw [← isTracking_iff, ← isTracking_iff, ← Bool.and_eq_true] at h
  rw [State.endGuard, if_pos h]

/-- With a slot FREE and no sweep to go on with the frame ends (R53). -/
theorem endGuard_none (h : ¬ (s.slot0 ≠ .free ∧ s.slot1 ≠ .free)) (hs : s.sweepAtGuard r.sweep = none) :
    s.endGuard r f = s.setRun { r with frame := none, sweep := none } := by
  rw [← isTracking_iff, ← isTracking_iff, ← Bool.and_eq_true] at h
  rw [State.endGuard, if_neg h, hs]

/-- With a slot FREE the frame searches within its budget (R52). -/
theorem endGuard_some (h : ¬ (s.slot0 ≠ .free ∧ s.slot1 ≠ .free)) (sw : Sweep) (hs : s.sweepAtGuard r.sweep = some sw) :
    s.endGuard r f
      = if searchBudget s.items f.t = 0 then s.setRun { r with frame := none, sweep := some sw }
        else s.setRun { r with
          frame := some { f with stage := .searching (searchBudget s.items f.t) (s.duePath f.gating) }, sweep := some sw } := by
  rw [← isTracking_iff, ← isTracking_iff, ← Bool.and_eq_true] at h
  rw [State.endGuard, if_neg h, hs]

theorem sweepAtGuard_none (hl : s.searchList = []) : s.sweepAtGuard none = none := by
  simp [State.sweepAtGuard, hl]

theorem sweepAtGuard_begins (hl : s.searchList ≠ []) : s.sweepAtGuard none = some (Sweep.start s.searchList) := by
  obtain ⟨c, rest, h⟩ := List.exists_cons_of_ne_nil hl
  simp [State.sweepAtGuard, h]

/-- Settles O43, by what State.endGuard does with both slots TRACKING, without a sweep to go on with, and with one. -/
theorem guardExpirySearches : Obligations.GuardExpirySearches := by
  intro s r f he hf hg ended budget path searches full tracked
  have hexec := exec_guardExpiry s r f he hf hg
  have hsearches (hfull : ¬ full) (sw : Sweep) (hs : s.sweepAtGuard r.sweep = some sw) :
      exec .guardExpiry s = .next (searches sw) := by
    rw [hexec, endGuard_some s r f hfull sw hs, duePath_eq]
    rfl
  refine ⟨fun hfull => ?_, fun hfull sw hsw => ?_, fun hfull hsw => ⟨s.searchList, fun c => ?_, searchList_pairwise s, ?_, ?_⟩⟩
  · rw [hexec, endGuard_full s r f hfull]
    rfl
  · exact hsearches hfull sw (by rw [hsw]; rfl)
  · simp only [mem_searchList, kindTracked_iff, tracked]
  · intro hl
    rw [hexec, endGuard_none s r f hfull (by rw [hsw, sweepAtGuard_none s hl])]
    rfl
  · intro hl
    exact hsearches hfull _ (by rw [hsw, sweepAtGuard_begins s hl]; rfl)

end Sys2Proof.KindsAndCurves
end

section
/-!
PROOFS. The requests that report, and that change nothing (R31, R44, R144, R148, R163) (O9).
-/

namespace Sys2Proof.KindsAndCurves

open Sys2Proof.Machine

variable (s : State) (p : PortId)

/-! ## What each request answers -/

/-- A request being received that leaves the state as it is changes the framing of its port alone. -/
theorem onRequest_answered (f : State → Answer) (reply : Reply) (hr : s.receiving p = true)
    (hf : f s = { state := s, reply := reply }) : s.onRequest p f = s.answered p reply .none := by
  rw [State.onRequest_receiving s p f hr, hf]

theorem fourOf_of_toNat {b : Byte} {c : Fin 4} (h : b.toNat = c.val) : fourOf b = some c := by
  unfold fourOf
  rw [h]
  fin_cases c <;> rfl

theorem fourOf_of_le {b : Byte} (h : 4 ≤ b.toNat) : fourOf b = none := by
  unfold fourOf
  split
  case h_5 => rfl
  all_goals omega

/-- The four entries in order. -/
theorem entries_toList : s.entries.toList = [s.entry 0, s.entry 1, s.entry 2, s.entry 3] := by
  refine List.ext_getElem (by simp) fun j hj _ => ?_
  have hj4 : j < 4 := by simpa using hj
  interval_cases j <;> simp [State.entry]

/-- What STATUS may report of the ring: 512 to 4096 records, and a lag within them (R99, R113). -/
theorem historyLaw_bounds (h : s.historyLaw) :
    512 ≤ 512 * s.items.ringBanks ∧ 512 * s.items.ringBanks ≤ 4096 ∧ s.lag p ≤ 512 * s.items.ringBanks := by
  obtain ⟨⟨hitems, -, -⟩, -, ⟨hcount, -, -⟩, hcur0, hcur1, -⟩ := h
  have hbanks : 1 ≤ s.items.ringBanks ∧ s.items.ringBanks ≤ 8 := by
    simpa [Item.range, Items.get, ItemRange.admits] using hitems .ringBanks
  have hlag : s.lag p ≤ s.count := by
    cases p
    · exact hcur0.1
    · exact hcur1.1
  have hcap : s.capacity = 512 * s.items.ringBanks := Nat.mul_comm _ _
  omega

/-- Settles O9: each request answers the state itself, field by field with the codes of the statement. -/
theorem reportsChangeNothing : Obligations.ReportsChangeNothing := by
  intro s p hr c stage stageOf shown finding status
  have hstage (h : Held) : h.stage.code = stage h := by
    simp only [stage]
    cases h.stage <;> rfl
  have hstageOf (e : Fin 4) : entryCode (s.entry e) = stageOf e := by
    simp only [stageOf]
    cases s.entry e
    · rfl
    · exact hstage _
  have hshown (e : Fin 4) : entryFields (s.entry e) = shown e := by
    simp only [shown]
    cases s.entry e with
    | none => rfl
    | some h =>
      simp only [entryFields, hstage, List.cons.injEq, and_true, true_and]
      refine ⟨?owner, ?trigger, ?start, ?target, ?truncated, ?fail⟩
      case owner => cases h.owner <;> rfl
      case trigger => cases h.trigger <;> rfl
      case start => unfold Held.startShown; cases h.window <;> rfl
      case target => unfold Held.targetShown; cases h.window <;> rfl
      case truncated => cases h.window <;> rfl
      case fail =>
        cases h.stage with
        | failed reason => cases reason <;> rfl
        | _ => rfl
  have hfinding (f : Finding) : f.fields = finding f := by
    simp only [finding, Finding.fields, List.cons.injEq, and_true]
    refine ⟨?kind, ?severity, ?axis, ?index, ?index2⟩
    case kind => cases f.kind <;> rfl
    case severity => unfold Finding.isFail; cases f.kind <;> rfl
    case axis =>
      cases f.axis with
      | none => rfl
      | some a => cases a <;> rfl
    case index => cases f.index <;> rfl
    case index2 => cases f.index2 <;> rfl
  have hstatus : s.answerStatus p = { state := s, reply := status } := by
    have hfields : s.statusFields p = status.fields := by
      simp only [State.statusFields, entries_toList, List.map_cons, List.map_nil, hstageOf, status, List.cons_append,
        List.nil_append, List.cons.injEq, and_true, true_and]
      refine ⟨?engine, rfl, rfl, ?capacity, rfl, ?mode, rfl, ?slot0, ?slot1⟩
      case engine => cases s.engine <;> rfl
      case capacity => rw [State.capacity, Nat.mul_comm]; rfl
      case mode => simp only [c]; cases (s.port p).cursor.mode <;> rfl
      case slot0 => cases s.slot0 <;> rfl
      case slot1 => cases s.slot1 <;> rfl
    rw [State.answerStatus, hfields]
  refine ⟨?_, fun format order => ?_, historyLaw_bounds s p, fun number u hu => ?_, fun number hn => ?_, ?_, ?_,
    fun code hc => ?_⟩
  · exact congrArg Host.Outcome.next (onRequest_answered s p _ _ hr hstatus)
  · cases order <;> rfl
  · refine congrArg Host.Outcome.next (onRequest_answered s p _ _ hr ?_)
    simp only [State.answerCurveRead, fourOf_of_toNat hu]
    rcases hcurve : s.curves[u] with _ | ⟨n, ks, _ | _ | _⟩ | ks <;> rfl
  · refine congrArg Host.Outcome.next (onRequest_answered s p _ _ hr ?_)
    simp only [State.answerCurveRead, fourOf_of_le hn]
  · refine congrArg Host.Outcome.next (onRequest_answered s p _ _ hr ?_)
    rw [State.answerCheckReport, funext hfinding]
    cases s.report.outcome <;> rfl
  · refine congrArg Host.Outcome.next (onRequest_answered s p _ _ hr ?_)
    simp only [State.answerCaptureStatus, entries_toList, List.flatMap_cons, List.flatMap_nil, List.append_nil, hshown,
      List.append_assoc]
  · show Host.Outcome.next (if commandCodes.contains code then s else s.onRequest p State.answerBadCommand) = _
    rw [if_neg (by simpa using hc), onRequest_answered s p _ _ hr rfl]

end Sys2Proof.KindsAndCurves
end

section
/-!
PROOFS. The tests of CONFIG WRITE and CURVE BEGIN in their order (R24, R46, R100) (O27).
-/

namespace Sys2Proof.KindsAndCurves

open Sys2Proof.Machine

variable (s : State) (p : PortId)

/-! ## CONFIG WRITE -/

/-- A CONFIG WRITE that is refused: the id of the request and the value stored, or 0 where the id names no item (log 9). -/
def writeRefused (s : State) (id : Byte) (rc : ResultCode) : Answer :=
  { state := s, reply := configReply rc id (((Item.ofId id).map s.items.get).getD 0) }

theorem answerConfigWrite_not_halted (id : Byte) (value : Half) (he : s.engine ≠ .halted) :
    s.answerConfigWrite p id value = writeRefused s id .refusedState := by
  rw [State.answerConfigWrite, if_pos he, writeRefused]

theorem answerConfigWrite_not_held (id : Byte) (value : Half) (he : s.engine = .halted) (hh : s.hold.has p = false) :
    s.answerConfigWrite p id value = writeRefused s id .notHolding := by
  simp [State.answerConfigWrite, he, hh, writeRefused]

theorem answerConfigWrite_no_item (id : Byte) (value : Half) (he : s.engine = .halted) (hh : s.hold.has p = true)
    (hi : Item.ofId id = none) : s.answerConfigWrite p id value = writeRefused s id .badItem := by
  simp [State.answerConfigWrite, he, hh, hi, writeRefused]

theorem answerConfigWrite_captures (id : Byte) (value : Half) (i : Item) (he : s.engine = .halted) (hh : s.hold.has p = true)
    (hi : Item.ofId id = some i) (hg : i.isGeometry = true) (hc : s.capturesPresent = true) :
    s.answerConfigWrite p id value = writeRefused s id .capturesPresent := by
  simp [State.answerConfigWrite, he, hh, hi, hg, hc, writeRefused]

theorem answerConfigWrite_not_accepted (id : Byte) (value : Half) (i : Item) (he : s.engine = .halted)
    (hh : s.hold.has p = true) (hi : Item.ofId id = some i) (hg : i.isGeometry = false)
    (ha : i.accept value.toNat = none) : s.answerConfigWrite p id value = writeRefused s id .badValue := by
  simp [State.answerConfigWrite, he, hh, hi, hg, ha, writeRefused]

theorem isGeometry_iff (i : Item) : i.isGeometry = true ↔ i = .ringBase ∨ i = .ringBanks := by
  cases i <;> simp [Item.isGeometry]

theorem isGeometry_of_codes {i : Item} {n : Nat} (h : i.range = .codes n) : i.isGeometry = false := by
  rw [Bool.eq_false_iff, Ne, isGeometry_iff]
  rintro (rfl | rfl) <;> cases h

theorem accept_of_codes {i : Item} {n v : Nat} (h : i.range = .codes n) (hv : n ≤ v) : i.accept v = none := by
  simp only [Item.accept, h]
  rw [if_neg (by omega)]

theorem capturesPresent_of_entry {e : Fin 4} (h : s.entry e ≠ none) : s.capturesPresent = true := by
  rw [State.capturesPresent, entries_toList, List.any_eq_true]
  exact ⟨s.entry e, by fin_cases e <;> simp, by simpa [Option.isSome_iff_ne_none] using h⟩

/-! ## CURVE BEGIN -/

theorem answerCurveBegin_not_halted (number count : Byte) (he : s.engine ≠ .halted) :
    s.answerCurveBegin p number count = { state := s, reply := s.curveShown .refusedState number } := by
  rw [State.answerCurveBegin, if_pos he]

theorem answerCurveBegin_not_held (number count : Byte) (he : s.engine = .halted) (hh : s.hold.has p = false) :
    s.answerCurveBegin p number count = { state := s, reply := s.curveShown .notHolding number } := by
  simp [State.answerCurveBegin, he, hh]

theorem answerCurveBegin_no_curve (number count : Byte) (he : s.engine = .halted) (hh : s.hold.has p = true)
    (hn : fourOf number = none) :
    s.answerCurveBegin p number count = { state := s, reply := s.curveShown .badValue number } := by
  simp [State.answerCurveBegin, he, hh, hn, State.curveShown, noCurveReply]

theorem answerCurveBegin_not_owner (number count : Byte) (c : Fin 4) (he : s.engine = .halted) (hh : s.hold.has p = true)
    (hn : fourOf number = some c) (hl : s.loadedByHolder p s.curves[c] = true) :
    s.answerCurveBegin p number count = { state := s, reply := s.curveShown .notOwner number } := by
  simp only [State.answerCurveBegin, he, hh, hn, hl, State.curveShown]
  rfl

/-- Settles O27, test by test in the order of the two answers. -/
theorem configurationGateTests : Obligations.ConfigurationGateTests := by
  intro s p id value number count hr write begin_
  have hwrite (rc : ResultCode) (h : s.answerConfigWrite p id value = writeRefused s id rc) : write rc := by
    refine congrArg Host.Outcome.next (onRequest_answered s p _ _ hr (h.trans ?_))
    rw [writeRefused, configReply]
    cases Item.ofId id <;> rfl
  have hbegin (rc : ResultCode) (h : s.answerCurveBegin p number count = { state := s, reply := s.curveShown rc number }) :
      begin_ rc := by
    refine congrArg Host.Outcome.next (onRequest_answered s p _ _ hr (h.trans ?_))
    rw [State.curveShown]
    cases fourOf number <;> rfl
  refine ⟨fun he => ⟨?_, ?_⟩, fun he hh => ⟨?_, ?_⟩, fun he hh => ⟨fun hi => ?_, fun i hi hg ⟨e, hc⟩ => ?_, fun i n hi hn hv => ?_,
    fun hn => ?_, fun c n ks hn hc ho => ?_⟩⟩
  · exact hwrite _ (answerConfigWrite_not_halted s p id value he)
  · exact hbegin _ (answerCurveBegin_not_halted s p number count he)
  · exact hwrite _ (answerConfigWrite_not_held s p id value he hh)
  · exact hbegin _ (answerCurveBegin_not_held s p number count he hh)
  · exact hwrite _ (answerConfigWrite_no_item s p id value he hh hi)
  · exact hwrite _ (answerConfigWrite_captures s p id value i he hh hi ((isGeometry_iff i).mpr hg)
      (capturesPresent_of_entry s hc))
  · exact hwrite _ (answerConfigWrite_not_accepted s p id value i he hh hi (isGeometry_of_codes hn) (accept_of_codes hn hv))
  · exact hbegin _ (answerCurveBegin_no_curve s p number count he hh (fourOf_of_le hn))
  · refine hbegin _ (answerCurveBegin_not_owner s p number count c he hh hn ?_)
    simp [State.loadedByHolder, hc, Curve.owner, ho]

end Sys2Proof.KindsAndCurves
end

section
/-!
PROOFS. The loading of a curve by CURVE BEGIN and CURVE KNOT (R24 to R27) (O31).
-/

namespace Sys2Proof.KindsAndCurves

open Sys2Proof.Machine

variable (s : State) (p : PortId) (c : Fin 4)

/-- OK for a value as it came, CLAMPED for one brought within range (R158). -/
theorem okUnless_bne (a b : Nat) : ResultCode.okUnless (a != b) = if a = b then .ok else .clamped := by
  unfold ResultCode.okUnless
  by_cases h : a = b <;> simp [h]

/-! ## CURVE KNOT -/

theorem answerCurveKnot_not_halted (number : Byte) (input output : Half) (he : s.engine ≠ .halted) :
    s.answerCurveKnot p number input output = { state := s, reply := s.curveShown .refusedState number } := by
  rw [State.answerCurveKnot, if_pos he]

theorem answerCurveKnot_no_curve (number : Byte) (input output : Half) (he : s.engine = .halted)
    (hn : fourOf number = none) : s.answerCurveKnot p number input output = { state := s, reply := noCurveReply } := by
  simp [State.answerCurveKnot, he, hn]

theorem answerCurveKnot_loaded (number : Byte) (input output : Half) (he : s.engine = .halted) (hn : fourOf number = some c)
    {ks : List Knot} (hc : s.curves[c] = .loaded ks) :
    s.answerCurveKnot p number input output = { state := s, reply := curveReply .curveFull s.curves[c] } := by
  simp only [State.answerCurveKnot, he, hn, hc]
  rfl

theorem answerCurveKnot_not_owner (number : Byte) (input output : Half) (he : s.engine = .halted) (hn : fourOf number = some c)
    (hl : ∀ ks, s.curves[c] ≠ .loaded ks) (ho : ∀ n ks, s.curves[c] ≠ .loading n ks (some p)) :
    s.answerCurveKnot p number input output = { state := s, reply := curveReply .notOwner s.curves[c] } := by
  simp only [State.answerCurveKnot, he, hn]
  cases hc : s.curves[c] with
  | empty => rfl
  | loaded ks => exact absurd hc (hl ks)
  | loading n ks owner =>
    have hne : owner ≠ some p := fun h => ho n ks (h ▸ hc)
    simp [hne]

/-- A knot as it is stored: each value clamped to its range (R26). -/
def storedKnot (input output : Half) : Knot := { input := min input.toNat 4095, output := min output.toNat 8191 }

theorem clampNat_zero (b v : Nat) : clampNat 0 b v = min v b := by simp [clampNat]

theorem knot_result (input output : Half) :
    ResultCode.okUnless ((storedKnot input output).input != input.toNat || (storedKnot input output).output != output.toNat)
      = if input.toNat ≤ 4095 ∧ output.toNat ≤ 8191 then .ok else .clamped := by
  have hin : (storedKnot input output).input = input.toNat ↔ input.toNat ≤ 4095 := min_eq_left_iff
  have hout : (storedKnot input output).output = output.toNat ↔ output.toNat ≤ 8191 := min_eq_left_iff
  unfold ResultCode.okUnless
  simp only [Bool.or_eq_true, bne_iff_ne, ne_eq, hin, hout]
  by_cases h1 : input.toNat ≤ 4095 <;> by_cases h2 : output.toNat ≤ 8191 <;> simp [h1, h2]

theorem answerCurveKnot_owner (number : Byte) (input output : Half) (he : s.engine = .halted) (hn : fourOf number = some c)
    {n : Nat} {ks : List Knot} (hc : s.curves[c] = .loading n ks (some p)) :
    s.answerCurveKnot p number input output
      = { state := s.setCurve c (storeKnot n ks (some p) (storedKnot input output))
          reply := curveReply (if input.toNat ≤ 4095 ∧ output.toNat ≤ 8191 then .ok else .clamped)
            (storeKnot n ks (some p) (storedKnot input output)) } := by
  rw [← knot_result]
  simp only [State.answerCurveKnot, he, hn, hc, clampNat_zero]
  simp [storedKnot]

/-- The curve after a knot: LOADED without owner with the last one (R27). -/
theorem storeKnot_eq (n : Nat) (ks : List Knot) (owner : Option PortId) (k : Knot) :
    storeKnot n ks owner k = if ks.length + 1 = n then .loaded (ks ++ [k]) else .loading n (ks ++ [k]) owner := by
  simp [storeKnot]

theorem storeKnot_shown (rc : ResultCode) (n : Nat) (ks : List Knot) (owner : Option PortId) (k : Knot) :
    curveReply rc (storeKnot n ks owner k)
      = { result := rc, fields := [.byte (if ks.length + 1 = n then 2 else 1), .byte (ks.length + 1)] } := by
  rw [storeKnot_eq]
  split <;> simp [curveReply, Curve.code, Curve.pointer, Curve.knots]

/-! ## CURVE BEGIN -/

theorem answerCurveBegin_begins (number count : Byte) (he : s.engine = .halted) (hh : s.hold.has p = true)
    (hn : fourOf number = some c) (hl : s.loadedByHolder p s.curves[c] = false) :
    s.answerCurveBegin p number count
      = { state := s.setCurve c (.loading (max 2 (min count.toNat 16)) [] (some p))
          reply :=
            { result := if max 2 (min count.toNat 16) = count.toNat then .ok else .clamped
              fields := [.byte 1, .byte 0] } } := by
  rw [← okUnless_bne]
  simp only [State.answerCurveBegin, he, hh, hn, hl]
  rfl

theorem loadedByHolder_eq_false
    (h : ¬ ((∃ n ks, s.curves[c] = .loading n ks (some p.other)) ∧ s.hold.has p.other = true)) :
    s.loadedByHolder p s.curves[c] = false := by
  rw [Bool.eq_false_iff]
  intro hl
  obtain ⟨howner, hheld⟩ : (s.curves[c]).owner = some p.other ∧ s.hold.has p.other = true := by
    simpa [State.loadedByHolder] using hl
  refine h ⟨?_, hheld⟩
  cases hc : s.curves[c] with
  | loading n ks owner =>
    rw [hc] at howner
    exact ⟨n, ks, congrArg _ howner⟩
  | _ => simp [hc, Curve.owner] at howner

/-- Settles O31, by the cases of a CURVE KNOT and the accepted CURVE BEGIN. -/
theorem curveLoading : Obligations.CurveLoading := by
  intro s p number input output hr shown refused
  have hrefused (reply : Reply) (h : s.answerCurveKnot p number input output = { state := s, reply := reply }) :
      refused reply := congrArg Host.Outcome.next (onRequest_answered s p _ _ hr h)
  have hshown (rc : ResultCode) (c : Fin 4) : curveReply rc s.curves[c] = shown rc c := by
    simp only [shown, curveReply]
    cases s.curves[c] <;> rfl
  refine ⟨fun he hn => hrefused _ ?_,
    fun he hn => hrefused _ (answerCurveKnot_no_curve s p number input output he (fourOf_of_le hn)), fun c hc => ?_⟩
  · rw [answerCurveKnot_not_halted s p number input output he, State.curveShown, fourOf_of_le hn]
    rfl
  have hn := fourOf_of_toNat hc
  refine ⟨fun he => hrefused _ ?_, fun he ⟨ks, hl⟩ => hrefused _ ?_, fun he hl ho => hrefused _ ?_, fun n ks he hl => ?_,
    fun count he hh hfree => ?_⟩
  · rw [answerCurveKnot_not_halted s p number input output he, State.curveShown, hn, ← hshown]
  · rw [answerCurveKnot_loaded s p c number input output he hn hl, hshown]
  · rw [answerCurveKnot_not_owner s p c number input output he hn hl ho, hshown]
  · refine congrArg Host.Outcome.next ?_
    have hans := answerCurveKnot_owner s p c number input output he hn hl
    rw [storeKnot_shown, storeKnot_eq] at hans
    rw [State.onRequest_receiving s p _ hr, hans]
    rfl
  · refine congrArg Host.Outcome.next ?_
    rw [State.onRequest_receiving s p _ hr,
      answerCurveBegin_begins s p c number count he hh hn (loadedByHolder_eq_false s p c hfree)]
    rfl

end Sys2Proof.KindsAndCurves
end

section
/-!
PROOFS. The ARMED captures that one trigger makes FILLING or READY (R132 to R134, R136).
-/

namespace Sys2Proof.KindsAndCurves

open Sys2Proof.Machine

variable (s u : State) (g : Trigger) (e : Fin 4)

/-- The entry that a trigger `g` reaches, with its look-back and look-ahead. -/
def firing (s : State) (g : Trigger) (e : Fin 4) : Option (Held × Nat × Nat) :=
  (s.entry e).bind fun h => if h.stage = .armed ∧ h.trigger = g then h.reach.map fun r => (h, r) else none

theorem firing_eq_some (h : Held) (back ahead : Nat) : firing s g e = some (h, back, ahead)
    ↔ s.entry e = some h ∧ h.stage = .armed ∧ h.trigger = g ∧ h.reach = some (back, ahead) := by
  unfold firing
  cases s.entry e with
  | none => simp
  | some h' =>
    by_cases ha : h'.stage = .armed ∧ h'.trigger = g
    · simp only [Option.bind_some, if_pos ha, Option.map_eq_some_iff, Option.some.injEq, Prod.mk.injEq]
      constructor
      · rintro ⟨r, hr, rfl, rfl⟩
        exact ⟨rfl, ha.1, ha.2, hr⟩
      · rintro ⟨rfl, -, -, hr⟩
        exact ⟨_, hr, rfl, rfl⟩
    · simp only [Option.bind_some, if_neg ha, reduceCtorEq, Option.some.injEq, false_iff]
      rintro ⟨rfl, hs, ht, -⟩
      exact ha ⟨hs, ht⟩

theorem firing_eq_none : firing s g e = none
    ↔ ∀ h back ahead, ¬ (s.entry e = some h ∧ h.stage = .armed ∧ h.trigger = g ∧ h.reach = some (back, ahead)) := by
  simp only [← firing_eq_some, Option.eq_none_iff_forall_ne_some, Prod.forall, ne_eq]

/-- An entry after its trigger (R132, R133). -/
def firedHeld (s : State) (h : Held) (back ahead : Nat) : Held :=
  { h with
    stage := if (s.window back ahead).target = 0 then .ready else .filling
    window := some (s.window back ahead), copied := 0, readPos := 0 }

/-- Whether CAPTURE is raised on port `q` by the trigger of entry `e`, whose window is empty (R133, R146). -/
def raises (s : State) (g : Trigger) (e : Fin 4) (q : PortId) : Bool :=
  (firing s g e).any fun x => decide ((s.window x.2.1 x.2.2).target = 0 ∧ x.1.owner = q)

theorem triggerArmed_none (h : firing s g e = none) : State.triggerArmed g e s = s := by
  unfold State.triggerArmed
  cases he : s.entry e with
  | none => rfl
  | some h' =>
    by_cases ha : h'.stage = .armed ∧ h'.trigger = g
    · have hr : h'.reach = none := by simpa [firing, he, ha] using h
      simp [ha, State.triggerHeld, hr]
    · simp [ha]

theorem triggerArmed_some {h : Held} {back ahead : Nat} (hf : firing s g e = some (h, back, ahead)) :
    (∀ e', (State.triggerArmed g e s).entry e' = if e' = e then some (firedHeld s h back ahead) else s.entry e')
    ∧ (∀ q, (State.triggerArmed g e s).port q = { s.port q with
        latched := { (s.port q).latched with capture := (s.port q).latched.capture || raises s g e q } })
    ∧ State.triggerArmed g e s
      = { s with
          entries := (State.triggerArmed g e s).entries
          port0 := (State.triggerArmed g e s).port0, port1 := (State.triggerArmed g e s).port1 } := by
  obtain ⟨he, hs, ht, hr⟩ := (firing_eq_some s g e h back ahead).mp hf
  have heq : State.triggerArmed g e s = s.triggerHeld e h := by simp [State.triggerArmed, he, hs, ht]
  rw [heq]
  obtain ⟨hz, ht⟩ | ⟨hz, ht⟩ := s.triggerHeld_cases e h back ahead hr <;> rw [ht]
  · refine ⟨fun e' => ?_, fun q => ?_, ?_⟩
    · have hentry : (State.raise (s.setEntry e (some (firedHeld s h back ahead))) h.owner .capture).entry e'
          = (s.setEntry e (some (firedHeld s h back ahead))).entry e' := by simp [State.entry]
      rw [← State.entry_setEntry, ← hentry]
      simp [firedHeld, hz]
    · obtain hq | hq := PortId.eq_or_other h.owner q <;> subst hq
      · simp [raises, hf, hz, Latched.raise]
      · simp [raises, hf]
    · cases h.owner <;> rfl
  · refine ⟨fun e' => ?_, fun q => ?_, rfl⟩
    · rw [State.entry_setEntry]
      simp [firedHeld, hz]
    · simp [raises, hf, hz]

/-- The captures among `done` triggered, `u` after. -/
def fired (s u : State) (g : Trigger) (done : Fin 4 → Bool) : Prop :=
  (∀ e, u.entry e
      = if done e then (firing s g e).elim (s.entry e) (fun x => some (firedHeld s x.1 x.2.1 x.2.2)) else s.entry e)
  ∧ (∀ q, ∃ capture : Bool,
      (capture = true ↔ (s.port q).latched.capture = true ∨ ∃ e, done e = true ∧ raises s g e q = true)
      ∧ u.port q = { s.port q with latched := { (s.port q).latched with capture := capture } })
  ∧ u = { s with entries := u.entries, port0 := u.port0, port1 := u.port1 }

theorem fired_refl : fired s s g fun _ => false :=
  ⟨fun _ => by simp, fun q => ⟨(s.port q).latched.capture, by simp, rfl⟩, rfl⟩

theorem fired_step {done : Fin 4 → Bool} (h : fired s u g done) (hd : done e = false) :
    fired s (State.triggerArmed g e u) g fun e' => done e' || e' == e := by
  obtain ⟨hent, hport, hrest⟩ := h
  have hentry : u.entry e = s.entry e := by rw [hent, hd]; rfl
  have hfiring : firing u g e = firing s g e := by rw [firing, hentry, firing]
  have hwindow : u.window = s.window := by rw [hrest]; rfl
  have hraises : raises u g e = raises s g e := by unfold raises; rw [hfiring, hwindow]
  have hsplit (q : PortId) : (∃ e', (done e' || e' == e) = true ∧ raises s g e' q = true)
      ↔ (∃ e', done e' = true ∧ raises s g e' q = true) ∨ raises s g e q = true := by
    simp only [Bool.or_eq_true, beq_iff_eq, or_and_right, exists_or, exists_eq_left]
  cases hf : firing s g e with
  | none =>
    rw [triggerArmed_none u g e (hfiring.trans hf)]
    refine ⟨fun e' => ?_, fun q => ?_, hrest⟩
    · by_cases he : e' = e
      · subst he; simp [hentry, hf]
      · simp [hent, he]
    · have hno : raises s g e q = false := by simp [raises, hf]
      simpa [hsplit, hno] using hport q
  | some x =>
    obtain ⟨h, back, ahead⟩ := x
    obtain ⟨hent', hport', hrest'⟩ := triggerArmed_some u g e (hfiring.trans hf)
    refine ⟨fun e' => ?_, fun q => ?_, ?_⟩
    · rw [hent']
      by_cases he : e' = e
      · subst he; simp [hf, firedHeld, hwindow]
      · simp [hent, he]
    · obtain ⟨capture, hiff, hq⟩ := hport q
      refine ⟨capture || raises s g e q, ?_, ?_⟩
      · rw [Bool.or_eq_true, hiff, hsplit, or_assoc]
      · rw [hport', hq, hraises]
    · rw [hrest', hrest]

theorem fired_all : fired s (s.forEntries (State.triggerArmed g)) g fun _ => true := by
  have h0 := fired_step s s g 0 (fired_refl s g) rfl
  have h1 := fired_step s _ g 1 h0 (by simp)
  have h2 := fired_step s _ g 2 h1 (by simp)
  have h3 := fired_step s _ g 3 h2 (by simp)
  have hall : (fun e : Fin 4 => (((false || e == 0) || e == 1) || e == 2) || e == 3) = fun _ => true := by
    funext e
    fin_cases e <;> rfl
  rwa [hall] at h3

/-- The captures ARMED with a trigger are triggered as the statements say. -/
theorem forEntries_triggered : s.triggered (s.forEntries (State.triggerArmed g)) g := by
  obtain ⟨hent, hport, hrest⟩ := fired_all s g
  unfold State.triggered
  intro wanted short start target armed
  have hwindow (back ahead : Nat) : s.window back ahead
      = { start := start back, target := target back ahead, truncated := decide (short back) } := by
    have hshort : s.older (wanted back) s.ring.o = decide (short back) := by
      simp only [State.older, State.atOrBefore, short, Bool.decide_and, bne, beq_eq_decide, decide_not]
    simp only [State.window, target, start]
    rw [hshort]
    simp only [decide_eq_true_eq, wanted]
  have hfires (e : Fin 4) (h : Held) (back ahead : Nat) : armed e h back ahead ↔ firing s g e = some (h, back, ahead) :=
    (firing_eq_some s g e h back ahead).symm
  refine ⟨fun e h back ahead ha => ?_, fun e hn => ?_, fun q => ?_, hrest⟩
  · rw [hent, (hfires e h back ahead).mp ha]
    simp [firedHeld, hwindow]
  · have hnone : firing s g e = none := (firing_eq_none s g e).mpr fun h back ahead => hn h back ahead
    rw [hent, hnone]
    rfl
  · obtain ⟨capture, hiff, hq⟩ := hport q
    refine ⟨capture, ?_, hq⟩
    have hraises (e : Fin 4) : raises s g e q = true
        ↔ ∃ h back ahead, armed e h back ahead ∧ target back ahead = 0 ∧ h.owner = q := by
      simp only [raises, hfires, hwindow, Option.any_eq_true, Prod.exists, decide_eq_true_eq]
    simp only [hiff, true_and, hraises]

end Sys2Proof.KindsAndCurves
end

section
/-!
PROOFS. A slot in a solve stage: its good frame, its faint frame, and its closing (R63 to R71) (O45, O46).
-/

namespace Sys2Proof.KindsAndCurves

open Sys2Proof.Machine

variable (s : State) (i : SlotId) (t : Track) (sm : Sample) (time : Time)

/-! ## The good frame (R64) -/

/-- Contact with hysteresis (R67). -/
theorem contactAfter_eq (items : Items) (before : Bool) (pressure : Nat) : contactAfter items before pressure
    = if before then decide (items.contactOff < pressure) else decide (items.contactOn ≤ pressure) := by
  cases before <;> simp [contactAfter, ← decide_not]

theorem solveSlot_good (got : List (TrackRead × Reading)) (hs : s.slot i = .tracking t) (hsm : s.sampleOf got i t = sm)
    (hl : s.items.leaveLevel ≤ sm.vals.tipAmp) : s.solveSlot got time i = s.goodFrame i t sm time := by
  rw [State.sampleOf_eq_solveFor] at hsm
  simp only [State.solveSlot, hs, hsm]
  rw [if_pos hl]

theorem solveSlot_faint (got : List (TrackRead × Reading)) (hs : s.slot i = .tracking t) (hsm : s.sampleOf got i t = sm)
    (hl : sm.vals.tipAmp < s.items.leaveLevel) : s.solveSlot got time i = s.faintFrame i t sm time := by
  rw [State.sampleOf_eq_solveFor] at hsm
  simp only [State.solveSlot, hs, hsm]
  rw [if_neg (by omega)]

/-- The record of a good frame, with PROX for an ENTER (R68, R70). -/
theorem good_written (c : Bool) (f : StrokeFields) :
    (if c then (s.append time (.stroke (if c then .enter else .sample) f)).raiseBoth .prox
      else s.append time (.stroke (if c then .enter else .sample) f))
      = if c then (s.append time (.stroke .enter f)).raiseBoth .prox else s.append time (.stroke .sample f) := by
  cases c <;> simp

/-- The windows after a frame: the collar windows on the end peaks where the collar is absent (R63). -/
theorem recentre_eq : t.recentre sm
    = { t with
        endX := sm.endXPeak, endY := sm.endYPeak
        colX := if sm.vals.flags.tiltAbsent then sm.endXPeak else sm.colXPeak
        colY := if sm.vals.flags.tiltAbsent then sm.endYPeak else sm.colYPeak } := by
  cases h : sm.vals.flags.tiltAbsent <;> simp [Track.recentre, h]

/-- Settles O45: the good frame's record and track are those of the statement, and its contact event triggers the captures. -/
theorem goodFrame : Obligations.GoodFrame := by
  intro s got time i t sm hs hsm hl v absent contact buttons fields written
  have hcontact : (t.good s.items sm).contact = contact := contactAfter_eq _ _ _
  have hbuttons : (t.good s.items sm).buttons = buttons := rfl
  have hfields : strokeOf i (t.good s.items sm) sm.vals = fields := by
    rw [strokeOf, hcontact, hbuttons]
    rfl
  have htrack : (t.good s.items sm).recentre sm
      = { kind := t.kind, toolEnd := t.toolEnd, endX := sm.endXPeak, endY := sm.endYPeak
          colX := if absent then sm.endXPeak else sm.colXPeak, colY := if absent then sm.endYPeak else sm.colYPeak
          miss := 0, contact := contact, buttons := buttons, first := false, lastGood := some v } := by
    rw [recentre_eq, hcontact, hbuttons]
    rfl
  refine ⟨if t.contact = false ∧ contact = true then written.contactEvent else written, fun h => ?_, fun h => if_neg h, ?_⟩
  · rw [if_pos h]
    exact forEntries_triggered written .contact
  · have hturned : (!t.contact && contact) = decide (t.contact = false ∧ contact = true) := by
      cases t.contact <;> cases contact <;> rfl
    rw [solveSlot_good s i t sm time got hs hsm hl, State.goodFrame, hfields, hcontact, htrack, good_written, hturned]
    simp only [decide_eq_true_eq]
    rfl

/-! ## The faint frame and the closing (R65, R66, R71) -/

theorem leave_first (hf : t.first = true) : s.leave i t time = s.setSlot i .free := by
  simp [State.leave, hf]

theorem leave_entered (hf : t.first = false) {v : SampleVals} (hv : t.lastGood = some v) :
    s.leave i t time = ((s.append time (.stroke .leave (leaveOf i t v))).raiseBoth .prox).setSlot i .free := by
  simp [State.leave, hf, hv]

theorem closeSlot_tracking (hs : s.slot i = .tracking t) : s.closeSlot i time = s.leave i t time := by
  simp [State.closeSlot, hs]

theorem faintFrame_leaves (h : t.miss + 1 = s.items.leaveCount) : s.faintFrame i t sm time = s.leave i t time := by
  simp [State.faintFrame, h]

/-- A slot after a frame that it misses without leaving. -/
def missed (t : Track) (sm : Sample) : Track := ({ t with miss := t.miss + 1 } : Track).recentre sm

theorem faintFrame_first (h : t.miss + 1 ≠ s.items.leaveCount) (hf : t.first = true) :
    s.faintFrame i t sm time = s.setSlot i (.tracking (missed t sm)) := by
  simp [State.faintFrame, h, hf, missed]

theorem faintFrame_held (h : t.miss + 1 ≠ s.items.leaveCount) (hf : t.first = false) {v : SampleVals}
    (hv : t.lastGood = some v) :
    s.faintFrame i t sm time
      = (s.append time (.stroke .sample (heldOf i { t with miss := t.miss + 1 } v))).setSlot i (.tracking (missed t sm)) := by
  simp [State.faintFrame, h, hf, hv, missed]

/-- Settles O46, by the miss count and by whether the slot has written its ENTER. -/
theorem faintFrameAndClosing : Obligations.FaintFrameAndClosing := by
  intro s i t time hs fields left
  have hclose := closeSlot_tracking s i t time hs
  have hleft (v : SampleVals) (hf : t.first = false) (hv : t.lastGood = some v) : s.leave i t time = left v :=
    leave_entered s i t time hf hv
  refine ⟨fun hf => ?_, fun v hf hv => ?_, fun got sm hsm hl => ?_⟩
  · rw [hclose, leave_first s i t time hf]
  · rw [hclose, hleft v hf hv]
  intro absent after
  have hfaint := solveSlot_faint s i t sm time got hs hsm hl
  have hafter : missed t sm = after := recentre_eq _ _
  refine ⟨fun hm hf => ?_, fun v hm hf hv => ?_, fun hm hf => ?_, fun v hm hf hv => ?_⟩
  · rw [hfaint, faintFrame_leaves s i t sm time hm, leave_first s i t time hf]
  · rw [hfaint, faintFrame_leaves s i t sm time hm, hleft v hf hv]
  · rw [hfaint, faintFrame_first s i t sm time (by omega) hf, hafter]
  · rw [hfaint, faintFrame_held s i t sm time (by omega) hf hv, hafter]
    rfl

end Sys2Proof.KindsAndCurves
end

section
/-!
PROOFS. RUN and STOP (R36, R37, R49, R55), and what a stop of frames leaves beside its records (O21, O22).
-/

namespace Sys2Proof.ScanEngine

open Sys2Proof.Machine Sys2Proof.KindsAndCurves

variable (s t : State) (p : PortId) (i : SlotId) (start : Time) (cause : BreakCause) (r : Run) (e : Engine)

/-! ## What a stop of frames leaves -/

/-- `t` differs from `s` only where records are appended and where an event that falls together with an append acts: the slots,
the ring with its banks, the entries, the two ports and the count of choices. -/
def appendsOnly (s t : State) : Prop :=
  t = { s with
    slot0 := t.slot0, slot1 := t.slot1, ring := t.ring, store := t.store, entries := t.entries, port0 := t.port0
    port1 := t.port1, choices := t.choices }

theorem appendsOnly_trans {s t u : State} (h : appendsOnly s t) (k : appendsOnly t u) : appendsOnly s u := by
  unfold appendsOnly at *
  rw [k, h]

theorem appendsOnly_of_recordsOnly {s t : State} (h : recordsOnly s t) : appendsOnly s t := by
  unfold recordsOnly at h
  unfold appendsOnly
  rw [h]

theorem appendsOnly_takeTogether (busy : List PortId) : appendsOnly s (s.takeTogether busy) := by
  obtain ⟨n, h⟩ := s.takeTogether_ringOnly busy
  unfold State.ringOnly at h
  unfold appendsOnly
  rw [h]

theorem appendsOnly_closeFrames : appendsOnly s (s.closeFrames p start cause) := by
  have hclose (u : State) (i : SlotId) : appendsOnly u ((u.closeSlot i start).takeTogether [p]) :=
    appendsOnly_trans (appendsOnly_of_recordsOnly (recordsOnly_closeSlot u start i)) (appendsOnly_takeTogether _ [p])
  exact appendsOnly_trans (appendsOnly_trans (hclose s .s0) (hclose _ .s1))
    (appendsOnly_of_recordsOnly (recordsOnly_append _ _ (.brk cause)))

/-- Beside that, a stop changes the engine. -/
theorem stopFrames_appendsOnly : appendsOnly { s with engine := e } (s.stopFrames p r cause e) := by
  have h := appendsOnly_closeFrames s p r.start cause
  unfold appendsOnly at h ⊢
  unfold State.stopFrames State.toEngine
  rw [h]
  rfl

theorem takeTogether_slot (busy : List PortId) : (s.takeTogether busy).slot i = s.slot i := by
  obtain ⟨n, h⟩ := s.takeTogether_ringOnly busy
  rw [h]
  cases i <;> rfl

/-- A stop leaves both slots FREE (R71). -/
theorem stopFrames_slot : (s.stopFrames p r cause e).slot i = .free := by
  let left := (s.closeSlot .s0 r.start).takeTogether [p]
  let closed := (left.closeSlot .s1 r.start).takeTogether [p]
  have hsame : (s.stopFrames p r cause e).slot i = (closed.append closed.counter (.brk cause)).slot i := by
    cases i <;> rfl
  have happend : (closed.append closed.counter (.brk cause)).slot i = closed.slot i := by
    cases i <;> simp
  rw [hsame, happend, takeTogether_slot, closeSlot_slot, takeTogether_slot, closeSlot_slot]
  cases i <;> rfl

/-! ## The two requests -/

theorem runEffect_joins (h : s.engine ≠ .idle) : s.runEffect p = { s with run := s.run.insert p } := by
  unfold State.runEffect
  cases he : s.engine with
  | idle => exact absurd he h
  | _ => rfl

theorem runEffect_idle (h : s.engine = .idle) :
    s.runEffect p = ({ s with run := s.run.insert p } : State).enterScanning := by
  simp only [State.runEffect, h]

/-- A frame that starts with both slots FREE takes no tracking readings: its guard begins at once (R51). -/
theorem newFrame_free (h0 : s.slot0 = .free) (h1 : s.slot1 = .free) :
    s.newFrame
      = { t := 0, gating := if s.items.quietGating then .active else .suspended, stage := .guarding 100 } := by
  simp [State.newFrame, State.trackingCount, State.trackPlan, slotReads, h0, h1, Slot.isTracking, Items.startGating,
    guardTime]

/-- Settles O22, by whether the engine is in IDLE. -/
theorem runJoinsRunSet : Obligations.RunJoinsRunSet := by
  intro s p hr joined
  have hexec : exec (.run p) s = .next ((s.runEffect p).answered p ((s.runEffect p).engineReply .ok) .none) :=
    congrArg Host.Outcome.next (State.onRequest_receiving s p _ hr)
  refine ⟨fun he => ?_, fun he h0 h1 => ?_⟩
  · rw [hexec, runEffect_joins s p he]
    refine congrArg (fun code => Host.Outcome.next (joined.answered p
      { result := .ok, fields := [.byte code, .u8 s.hold.toByte, .u8 joined.run.toByte] } .none)) ?_
    cases s.engine <;> rfl
  · rw [hexec, runEffect_idle s p he, State.enterScanning, State.startFrame, newFrame_free joined h0 h1]
    rfl

theorem stopEffect_leaves (h : s.engine.isScanning = false ∨ (s.run.erase p).isEmpty = false) :
    s.stopEffect p = { s with run := s.run.erase p } := by
  unfold State.stopEffect
  cases he : s.engine with
  | scanning r =>
    have hrun : (s.run.erase p).isEmpty = false := by simpa [he, Engine.isScanning] using h
    simp [hrun]
  | _ => rfl

theorem stopEffect_stops (he : s.engine = .scanning r) (h : (s.run.erase p).isEmpty = true) :
    s.stopEffect p = ({ s with run := s.run.erase p } : State).stopFrames p r .stopped .idle := by
  simp only [State.stopEffect, he]
  rw [if_pos h]

theorem isEmpty_iff (a : PortSet) : a.isEmpty = true ↔ a = PortSet.empty := by
  obtain ⟨x, y⟩ := a
  cases x <;> cases y <;> simp [PortSet.isEmpty, PortSet.empty]

/-- Settles O21, by whether the port was the last of the run set in SCANNING. -/
theorem stopLeavesRunSet : Obligations.StopLeavesRunSet := by
  intro s p hr left
  have hexec : exec (.stop p) s = .next ((s.stopEffect p).answered p ((s.stopEffect p).engineReply .ok) .none) :=
    congrArg Host.Outcome.next (State.onRequest_receiving s p _ hr)
  refine ⟨fun h => ?_, fun r he h => ⟨left.stopFrames p r .stopped .idle, ?_, stopFrames_stopped left p r .stopped .idle⟩⟩
  · rw [hexec, stopEffect_leaves s p h]
    refine congrArg (fun code => Host.Outcome.next (left.answered p
      { result := .ok, fields := [.byte code, .u8 s.hold.toByte, .u8 left.run.toByte] } .none)) ?_
    cases s.engine <;> rfl
  · have hreply : (left.stopFrames p r .stopped .idle).engineReply .ok
        = { result := .ok, fields := [.byte 2, .u8 s.hold.toByte, .byte 0] } := by
      rw [State.engineReply, stopFrames_appendsOnly left p .stopped r .idle]
      show Reply.mk .ok [_, _, .u8 left.run.toByte] [] = _
      rw [(isEmpty_iff _).mp h]
      rfl
    rw [hexec, stopEffect_stops s p r he h, hreply]

end Sys2Proof.ScanEngine
end

section
/-!
PROOFS. The start of a frame with its tracking readings, and the waits of its readings for QUIET (R49 to R54, R62) (O41, O44).
-/

namespace Sys2Proof.ScanEngine

open Sys2Proof.Machine Sys2Proof.KindsAndCurves

variable (s : State) (r : Run) (f : Frame) (i : SlotId)

/-! ## QUIET (R54) -/

theorem beginWaiting_of_not_waiting {st : Stage} (h : st.waitingSince = none) (dwell : Nat) : st.beginWaiting dwell = st := by
  cases st with
  | tracking cur rest got path =>
    cases path with
    | waiting since => cases h
    | reading left => rfl
  | searching budget path =>
    cases path with
    | waiting since => cases h
    | reading left => rfl
  | guarding left => rfl

/-- What waits is a tracking reading or a search reading. -/
theorem waitingSince_eq_some {st : Stage} {since : Time} (h : st.waitingSince = some since) :
    (∃ cur rest got, st = .tracking cur rest got (.waiting since)) ∨ ∃ budget, st = .searching budget (.waiting since) := by
  rcases st with ⟨cur, rest, got, since' | left⟩ | left | ⟨budget, since' | left⟩
  · cases h
    exact .inl ⟨cur, rest, got, rfl⟩
  · cases h
  · cases h
  · cases h
    exact .inr ⟨budget, rfl⟩
  · cases h

theorem quietRise_frame (he : s.engine = .scanning r) (hf : r.frame = some f) :
    s.quietRise = { s with
      quiet := true
      engine := .scanning { r with frame := some { f with stage := f.stage.beginWaiting s.items.dwell } } } := by
  simp only [State.quietRise, he, hf, State.setRun]

/-- Where no reading waits a rise changes the pin alone. -/
theorem quietRise_of_not_waiting
    (h : ∀ r f, s.engine = .scanning r → r.frame = some f → f.stage.waitingSince = none) :
    s.quietRise = { s with quiet := true } := by
  cases he : s.engine with
  | scanning r =>
    cases hf : r.frame with
    | some f =>
      rw [quietRise_frame s r f he hf, beginWaiting_of_not_waiting (h r f he hf), ← hf, ← he]
    | none => simp only [State.quietRise, he, hf]
  | _ => simp only [State.quietRise, he]

theorem quietTimerExpiry_waiting {since : Time} (he : s.engine = .scanning r) (hf : r.frame = some f)
    (hw : f.stage.waitingSince = some since) :
    s.quietTimerExpiry
      = if s.items.quietTimeout ≤ seqDist since s.counter then
          (s.raiseBoth .quiet).setRun
            { r with frame := some { f with gating := .suspended, stage := f.stage.beginWaiting s.items.dwell } }
        else s := by
  simp only [State.quietTimerExpiry, he, hf, hw]

/-- Settles O44: what a rise and an expiry do to the reading that waits, and to none. -/
theorem quietEndsWait : Obligations.QuietEndsWait := by
  intro s
  refine ⟨rfl, fun h => ?_, ?_⟩
  · refine congrArg Host.Outcome.next (quietRise_of_not_waiting s fun r f he hf => ?_)
    by_contra hne
    obtain ⟨since, hw⟩ := Option.ne_none_iff_exists'.mp hne
    obtain ⟨htracking, hsearching⟩ := h r f he hf since
    obtain ⟨cur, rest, got, hst⟩ | ⟨budget, hst⟩ := waitingSince_eq_some hw
    · exact htracking cur rest got hst
    · exact hsearching budget hst
  · intro r f since stage he hf hs hstage begun
    obtain ⟨hw, hbegin⟩ : f.stage.waitingSince = some since
        ∧ f.stage.beginWaiting s.items.dwell = stage (.reading s.items.dwell) := by
      rw [hs]
      obtain ⟨cur, rest, got, rfl⟩ | ⟨budget, rfl⟩ := hstage <;> exact ⟨rfl, rfl⟩
    have hexpiry := quietTimerExpiry_waiting s r f he hf hw
    refine ⟨congrArg Host.Outcome.next ?_, fun hd => congrArg Host.Outcome.next ?_, fun hd => congrArg Host.Outcome.next ?_⟩
    · rw [quietRise_frame s r f he hf, hbegin]
    · rw [hexpiry, if_pos hd, hbegin]
      rfl
    · rw [hexpiry, if_neg (by omega)]

/-! ## The start of a frame (R49 to R51, R62) -/

theorem slotReads_length (items : Items) (x : Slot) : (slotReads items i x).length = 28 * x.isTracking.toNat := by
  cases x <;> simp [slotReads, windowReads, Slot.isTracking]

theorem trackPlan_length : s.trackPlan.length = 28 * s.trackingCount := by
  rw [State.trackPlan, List.length_append, slotReads_length, slotReads_length, ← Nat.mul_add]
  rfl

/-- A window stays inside its axis (R62). -/
theorem windowReads_inside (items : Items) (t : Track) (w : WindowId) (hn : 7 ≤ items.coils w.axis) :
    ∀ x ∈ windowReads items i t w, x.coil < items.coils x.axis := by
  intro x hx
  obtain ⟨j, hj, rfl⟩ := List.mem_map.mp hx
  rw [List.mem_range] at hj
  show windowFirst _ _ + j < items.coils w.axis
  unfold windowFirst
  omega

theorem slotReads_inside (items : Items) (x : Slot) (hx : 7 ≤ items.xCoils) (hy : 7 ≤ items.yCoils) :
    ∀ y ∈ slotReads items i x, y.coil < items.coils y.axis := by
  intro y hmem
  cases x with
  | free => cases hmem
  | tracking t =>
    simp only [slotReads, List.mem_append] at hmem
    obtain ((h | h) | h) | h := hmem
    · exact windowReads_inside i items t .endX hx y h
    · exact windowReads_inside i items t .endY hy y h
    · exact windowReads_inside i items t .colX hx y h
    · exact windowReads_inside i items t .colY hy y h

theorem frameStart_due (he : s.engine = .scanning r) (hf : r.frame = none) :
    s.frameStart = if s.items.framePeriod ≤ seqDist r.start s.counter then s.startFrame r.sweep else s := by
  simp only [State.frameStart, he, hf]

/-- The first reading of a frame waits when gating is configured and QUIET is low (R54). -/
theorem startPath_eq : s.duePath s.items.startGating
    = if s.items.quietGating = true ∧ s.quiet = false then .waiting s.counter else .reading s.items.dwell := by
  rw [duePath_eq, Items.startGating]
  cases s.items.quietGating <;> simp

/-- Settles O41, by the readings that State.trackPlan lists. -/
theorem frameStart : Obligations.FrameStart := by
  intro s r he hf first window readings plan gating path
  have hreadings (i : SlotId) (x : Slot) : readings i x = slotReads s.items i x := by
    cases x with
    | free => rfl
    | tracking t =>
      obtain ⟨kind, toolEnd, endX, endY, colX, colY, miss, contact, buttons, first', lastGood⟩ := t
      cases toolEnd <;> rfl
  have hplan : plan = s.trackPlan := congrArg₂ (· ++ ·) (hreadings .s0 s.slot0) (hreadings .s1 s.slot1)
  have hstart := frameStart_due s r he hf
  refine ⟨fun hd => congrArg Host.Outcome.next ?_, fun hd => ⟨s.newFrame.stage, congrArg Host.Outcome.next ?_, fun hp => ?_,
    fun cur rest hp => ?_⟩, ?_, fun hx hy => ?_⟩
  · rw [hstart, if_neg (by omega)]
  · rw [hstart, if_pos hd]
    rfl
  · rw [hplan] at hp
    simp only [State.newFrame, hp]
    rfl
  · rw [hplan] at hp
    simp only [State.newFrame, hp, startPath_eq]
    rfl
  · rw [hplan, trackPlan_length]
    rfl
  · rw [hplan, State.trackPlan]
    intro x hmem
    obtain h | h := List.mem_append.mp hmem
    · exact slotReads_inside .s0 s.items s.slot0 (by omega) (by omega) x h
    · exact slotReads_inside .s1 s.items s.slot1 (by omega) (by omega) x h

end Sys2Proof.ScanEngine
end

section
/-!
PROOFS. An accepted CONFIG WRITE of a ring geometry item, with the flush that it brings (R99, R100, R108, R126) (O29).
-/

namespace Sys2Proof.ScanEngine

open Sys2Proof.Machine Sys2Proof.KindsAndCurves

variable (s : State) (p : PortId) (e : Fin 4)

/-- A CONFIG WRITE that passes its tests stores the accepted value (R46). -/
theorem answerConfigWrite_accepted (id : Byte) (value : Half) {i : Item} {v : Nat} (he : s.engine = .halted)
    (hh : s.hold.has p = true) (hi : Item.ofId id = some i) (hc : (i.isGeometry && s.capturesPresent) = false)
    (ha : i.accept value.toNat = some v) :
    s.answerConfigWrite p id value
      = { state := s.storeItem i v
          reply := configReply (.okUnless (s.itemClamped i value.toNat v)) id ((s.storeItem i v).items.get i) } := by
  unfold State.answerConfigWrite
  simp only [he, hh, hi, hc, ha]
  rfl

theorem capturesPresent_of_empty (h : ∀ e, s.entry e = none) : s.capturesPresent = false := by
  simp [State.capturesPresent, entries_toList, h]

theorem flushEntry_empty (h : s.entry e = none) : s.flushEntry e = s := by
  unfold State.flushEntry
  rw [h]

theorem forEntries_flushEntry_empty (h : ∀ e, s.entry e = none) : s.forEntries State.flushEntry = s := by
  simp only [State.forEntries, flushEntry_empty s _ (h _)]

/-- A port after a flush that leaves W at `w` (R108, R118). -/
def flushedPort (w : Seq) (q : Port) : Port :=
  { q with
    cursor := { q.cursor with next := w, mark := none, moved := true }, latched := { q.latched with ring := true } }

/-- A port whose cursor's thresholds are brought within a capacity of `c` (R126). -/
def clampedPort (c : Nat) (q : Port) : Port :=
  { q with cursor := { q.cursor with ready := min q.cursor.ready c, margin := min q.cursor.margin (c - 1) } }

/-- With every entry EMPTY a flush acts on O and on the two ports (R108). -/
theorem flushRing_of_empty (h : ∀ e, s.entry e = none) :
    s.flushRing = { s with
      ring := { s.ring with o := s.ring.w }
      port0 := flushedPort s.ring.w s.port0, port1 := flushedPort s.ring.w s.port1 } := by
  unfold State.flushRing
  dsimp only
  rw [forEntries_flushEntry_empty _ fun e => by simpa [State.forPorts, State.flushCursor, State.entry] using h e]
  rfl

theorem forPorts_clampThresholds : s.forPorts State.clampThresholds
    = { s with port0 := clampedPort s.capacity s.port0, port1 := clampedPort s.capacity s.port1 } := rfl

/-- With every entry EMPTY a geometry flush acts on the ring and on the two ports (R100, R126). -/
theorem geometryFlush_of_empty (h : ∀ e, s.entry e = none) :
    s.geometryFlush = { s with
      ring := { w := s.ring.w, o := s.ring.w, writePos := 0 }
      port0 := clampedPort s.capacity (flushedPort s.ring.w s.port0)
      port1 := clampedPort s.capacity (flushedPort s.ring.w s.port1) } := by
  have hflush := flushRing_of_empty { s with ring := { s.ring with writePos := 0 } } h
  rw [State.geometryFlush, hflush, forPorts_clampThresholds]
  rfl

theorem fitRing_eq (x : Items) : x.fitRing
    = { x with ringBanks := if 8 < x.ringBase + x.ringBanks then 8 - x.ringBase else x.ringBanks } := by
  unfold Items.fitRing
  split <;> rfl

theorem storeItem_geometry {i : Item} (v : Nat) (hg : i.isGeometry = true) :
    s.storeItem i v = ({ s with items := (s.items.set i v).fitRing } : State).geometryFlush := by
  rw [State.storeItem, if_pos hg]

/-- The stored values of the two items before they are fitted: the one written clamped, the other as it was (R46). -/
theorem geometry_set {i : Item} (value : Nat) (hi : i = .ringBase ∨ i = .ringBanks) :
    ∃ v, i.accept value = some v
      ∧ s.items.set i v = { s.items with
          ringBase := if i = .ringBase then min value 7 else s.items.ringBase
          ringBanks := if i = .ringBanks then max 1 (min value 8) else s.items.ringBanks }
      ∧ v = if i = .ringBase then min value 7 else max 1 (min value 8) := by
  obtain rfl | rfl := hi
  · exact ⟨min value 7, by simp [Item.accept, Item.range, clampNat], rfl, rfl⟩
  · exact ⟨max 1 (min value 8), by simp [Item.accept, Item.range, clampNat], rfl, rfl⟩

/-- Settles O29: the fitted items, the flush of an empty capture table, and what was brought within range. -/
theorem geometryWriteFlushes : Obligations.GeometryWriteFlushes := by
  intro s p id value i hr he hh hid hi hempty base wanted banks shown unchanged moved
  obtain ⟨v, haccept, hset, hv⟩ := geometry_set s value.toNat hi
  have hg : i.isGeometry = true := (isGeometry_iff i).mpr hi
  have hanswer := answerConfigWrite_accepted s p id value he hh hid
    (by rw [capturesPresent_of_empty s hempty, Bool.and_false]) haccept
  have hfit : (s.items.set i v).fitRing = { s.items with ringBase := base, ringBanks := banks } := by
    rw [hset, fitRing_eq]
  have hstate : s.storeItem i v = { s with
      items := { s.items with ringBase := base, ringBanks := banks }
      ring := { w := s.ring.w, o := s.ring.w, writePos := 0 }
      port0 := clampedPort (512 * banks) (flushedPort s.ring.w s.port0)
      port1 := clampedPort (512 * banks) (flushedPort s.ring.w s.port1) } := by
    rw [storeItem_geometry s v hg, hfit, Nat.mul_comm 512]
    exact geometryFlush_of_empty { s with items := { s.items with ringBase := base, ringBanks := banks } } hempty
  have hshown : (s.storeItem i v).items.get i = shown := by
    rw [hstate]
    obtain rfl | rfl := hi <;> rfl
  have hclamped : s.itemClamped i value.toNat v = decide (¬ unchanged) := by
    rw [State.itemClamped, hset, hg, hv, Bool.eq_iff_iff]
    simp only [Bool.or_eq_true, bne_iff_ne, Bool.true_and, decide_eq_true_eq, unchanged, shown, banks]
    obtain rfl | rfl := hi
    · simp only [base, wanted, if_true, reduceCtorEq, if_false]
      split <;> omega
    · simp only [base, wanted, if_true, reduceCtorEq, if_false]
      split <;> omega
  refine congrArg Host.Outcome.next ?_
  rw [State.onRequest_receiving s p _ hr, hanswer, hshown, hclamped, hstate]
  refine congrArg (fun result => State.answered _ p { result := result, fields := [.u8 id, .half shown] } .none) ?_
  by_cases hu : unchanged <;> simp [hu, ResultCode.okUnless]

end Sys2Proof.ScanEngine
end

section
/-!
PROOFS. What a command can do to the engine and what hangs on it: every command but full reset and the tick is one move of the
engine, or none, between changes that touch neither the engine, its sets, the slots nor W (R33, R49 to R55).
-/

namespace Sys2Proof.ScanEngine

open Sys2Proof.Machine Sys2Proof.KindsAndCurves

variable (s t u : State) (p q : PortId) (e : Fin 4)

/-! ## Changes beside the engine -/

/-- `t` differs from `s` only beside the engine: the items, the map, the report, the engine with its two sets, the slots, W, the
tile and the counter are as before. -/
def aside (s t : State) : Prop :=
  t = { s with
    curves := t.curves, ring := { t.ring with w := s.ring.w }, store := t.store, entries := t.entries, pulse := t.pulse
    quiet := t.quiet, port0 := t.port0, port1 := t.port1, pending := t.pending, choices := t.choices }

theorem aside_refl : aside s s := rfl

theorem aside_trans {s t u : State} (h : aside s t) (k : aside t u) : aside s u := by
  unfold aside at *
  rw [k, h]

theorem aside_of_ringOnly {s t : State} (h : s.ringOnly t) : aside s t := by
  unfold State.ringOnly at h
  unfold aside
  rw [h]

theorem aside_setPort (x : Port) : aside s (s.setPort p x) := by cases p <;> rfl

theorem aside_ite {c : Prop} [Decidable c] {s t u : State} (ht : aside s t) (hu : aside s u) :
    aside s (if c then t else u) := by
  split <;> assumption

theorem aside_forEntries (f : Fin 4 → State → State) (hf : ∀ e u, aside u (f e u)) : aside s (s.forEntries f) :=
  aside_trans (aside_trans (aside_trans (hf 0 _) (hf 1 _)) (hf 2 _)) (hf 3 _)

theorem aside_takeTogether (busy : List PortId) : aside s (s.takeTogether busy) := by
  obtain ⟨n, h⟩ := s.takeTogether_ringOnly busy
  exact aside_trans (t := { s with choices := n }) rfl (aside_of_ringOnly h)

/-! ## Captures -/

theorem aside_triggerHeld (h : Held) : aside s (s.triggerHeld e h) := by
  unfold State.triggerHeld
  split
  · exact aside_ite (aside_setPort (s.setEntry e _) h.owner _) rfl
  · exact aside_refl s

theorem aside_triggerArmed (g : Trigger) : aside s (State.triggerArmed g e s) := by
  unfold State.triggerArmed
  split
  · exact aside_ite (aside_triggerHeld s e _) (aside_refl s)
  · exact aside_refl s

theorem aside_contactEvent : aside s s.contactEvent := aside_forEntries s _ fun e u => aside_triggerArmed u e .contact

theorem aside_startCapture (g : Trigger) (first : Word) (second : Half) (drive : Byte) (bank : Fin 8) :
    aside s (s.startCapture p g first second drive e bank) := by
  cases g with
  | immediate => exact aside_triggerHeld s e (armedEntry p .immediate first second bank)
  | sync => exact aside_ite rfl rfl
  | contact => rfl
  | absolute => rfl

theorem aside_answerCapture (trigger : Byte) (first : Word) (second : Half) (drive : Byte) :
    aside s (s.answerCapture p trigger first second drive).state := by
  unfold State.answerCapture
  repeat' split
  · exact aside_refl s
  · exact aside_refl s
  · exact aside_startCapture s p _ _ _ _ _ _
  · exact aside_refl s

theorem aside_answerCaptureRead (entry n fromStart : Byte) : aside s (s.answerCaptureRead p entry n fromStart).state := by
  unfold State.answerCaptureRead
  dsimp only
  repeat' split
  all_goals rfl

theorem aside_answerCaptureRelease (entry : Byte) : aside s (s.answerCaptureRelease p entry).state := by
  unfold State.answerCaptureRelease
  dsimp only
  repeat' split
  all_goals rfl

theorem aside_captureCopy : aside s (s.captureCopy e) := by
  obtain h | ⟨x, w, -, -, -, ⟨r, -, h⟩ | ⟨-, h⟩⟩ := s.captureCopy_cases e <;> rw [h]
  · exact aside_refl s
  · exact aside_ite (aside_setPort { s with store := _, entries := _ } x.owner _) rfl
  · exact aside_setPort (s.setEntry e _) x.owner _

theorem aside_captureReadPlaceBegin : aside s (s.captureReadPlaceBegin p) := by
  unfold State.captureReadPlaceBegin
  repeat' split
  · exact aside_setPort s p _
  all_goals exact aside_refl s

theorem aside_captureReadRecordComplete : aside s (s.captureReadRecordComplete p) := by
  have hadvance (e : Fin 4) (live : Bool) : aside s (s.advanceRead e live) := by
    unfold State.advanceRead
    split <;> rfl
  unfold State.captureReadRecordComplete
  repeat' split
  · exact aside_trans (hadvance _ _) (aside_setPort _ p _)
  all_goals exact aside_refl s

theorem aside_tsyncPulseExpiry : aside s (if s.pulse = some 0 then { s with pulse := none } else s) := aside_ite rfl rfl

/-! ## Curves and ports -/

theorem aside_answerCurveBegin (number count : Byte) : aside s (s.answerCurveBegin p number count).state := by
  unfold State.answerCurveBegin
  dsimp only
  repeat' split
  all_goals rfl

theorem aside_answerCurveKnot (number : Byte) (input output : Half) :
    aside s (s.answerCurveKnot p number input output).state := by
  unfold State.answerCurveKnot
  dsimp only
  repeat' split
  all_goals rfl

theorem aside_answerPortSetup (format order lapse : Byte) (enable : Half) :
    aside s (s.answerPortSetup p format order lapse enable).state := by
  unfold State.answerPortSetup
  split
  · exact aside_setPort s p _
  · exact aside_refl s

theorem aside_csFall : aside s (s.csFall p) := by
  unfold State.csFall
  split
  · exact aside_setPort s p _
  all_goals exact aside_refl s

theorem aside_abandon : aside s (s.abandon p) := by
  unfold State.abandon
  split
  · exact aside_setPort s p _
  · exact aside_setPort s p _
  all_goals exact aside_refl s

/-- The release of what a port owns comes after its withdrawal and is beside the engine (R29, R145). -/
theorem aside_releaseClaims : aside s ((s.releaseOwned p).orphanCurves p) := by
  obtain ⟨-, -, hrest⟩ := releaseOwned_released s p
  exact aside_trans (t := s.releaseOwned p) (by unfold aside; rw [hrest]) rfl

/-! ## The moves of the engine -/

/-- What the events of a frame do to the slots and the records: nothing, a solve stage, or the evaluation of the sweep in
progress. -/
def workedBy (s : State) (r : Run) (u : State) : Prop :=
  aside s u
  ∨ (∃ got, u = ((s.solveSlot got r.start .s0).takeTogether []).solveSlot got r.start .s1)
  ∨ ∃ sw kept, r.sweep = some sw ∧ kept.list = sw.list ∧ u = s.evaluateSweep kept

/-- A sweep goes on over the list it began with, and one that begins takes the search list (R53). -/
def sweepFrom (s : State) (r r' : Run) : Prop :=
  ∀ sw', r'.sweep = some sw' → sw'.list = s.searchList ∨ ∃ sw, r.sweep = some sw ∧ sw'.list = sw.list

/-- An event of a frame does nothing to the engine, or works on the slots and leaves it in SCANNING (R49 to R54). -/
def frameEvent (s t : State) : Prop :=
  aside s t ∨ ∃ r r' u, s.engine = .scanning r ∧ workedBy s r u ∧ sweepFrom s r r' ∧ t = u.setRun r'

theorem sweepFrom_same {r r' : Run} (h : r'.sweep = r.sweep) : sweepFrom s r r' :=
  fun sw' hs => .inr ⟨sw', h ▸ hs, rfl⟩

theorem sweepFrom_none {r r' : Run} (h : r'.sweep = none) : sweepFrom s r r' := by
  intro sw' hs
  rw [h] at hs
  cases hs

theorem sweepFrom_moved {r r' : Run} {sw sw' : Sweep} (h : r.sweep = some sw) (hl : sw'.list = sw.list)
    (h' : r'.sweep = some sw') : sweepFrom s r r' := by
  intro x hx
  rw [h', Option.some.injEq] at hx
  exact .inr ⟨sw, h, hx ▸ hl⟩

/-- An event that changes the run alone, the sweep going on as it was. -/
theorem frameEvent_setRun {r r' : Run} {u : State} (he : s.engine = .scanning r) (hu : aside s u) (hs : r'.sweep = r.sweep) :
    frameEvent s (u.setRun r') :=
  .inr ⟨r, r', u, he, .inl hu, sweepFrom_same s hs, rfl⟩

theorem frameStart_frameEvent : frameEvent s s.frameStart := by
  unfold State.frameStart
  split
  · rename_i r he
    split
    · split
      · exact frameEvent_setRun s he (aside_refl s) rfl
      · exact .inl (aside_refl s)
    · exact .inl (aside_refl s)
  all_goals exact .inl (aside_refl s)

theorem quietRise_frameEvent : frameEvent s s.quietRise := by
  unfold State.quietRise
  dsimp only
  split
  · rename_i r he
    split
    · exact frameEvent_setRun s he (u := { s with quiet := true }) rfl rfl
    · exact .inl rfl
  all_goals exact .inl rfl

theorem quietTimerExpiry_frameEvent : frameEvent s s.quietTimerExpiry := by
  unfold State.quietTimerExpiry
  split
  · rename_i r he
    split
    · split
      · split
        · exact frameEvent_setRun s he (u := s.raiseBoth .quiet) rfl rfl
        · exact .inl (aside_refl s)
      · exact .inl (aside_refl s)
    · exact .inl (aside_refl s)
  all_goals exact .inl (aside_refl s)

theorem sweepAtGuard_list {sweep : Option Sweep} {sw : Sweep} (h : s.sweepAtGuard sweep = some sw) :
    sw.list = s.searchList ∨ sweep = some sw := by
  cases sweep with
  | some sw' => exact .inr h
  | none =>
    by_cases hl : s.searchList = []
    · rw [sweepAtGuard_none s hl] at h
      cases h
    · rw [sweepAtGuard_begins s hl, Option.some.injEq] at h
      exact .inl (h ▸ rfl)

theorem endGuard_frameEvent (r : Run) (f : Frame) (he : s.engine = .scanning r) : frameEvent s (s.endGuard r f) := by
  have hends (r' : Run) (hr : r'.sweep = none) : frameEvent s (s.setRun r') :=
    .inr ⟨r, r', s, he, .inl (aside_refl s), sweepFrom_none s hr, rfl⟩
  by_cases hfull : s.slot0 ≠ .free ∧ s.slot1 ≠ .free
  · rw [endGuard_full s r f hfull]
    exact hends _ rfl
  · cases hs : s.sweepAtGuard r.sweep with
    | none =>
      rw [endGuard_none s r f hfull hs]
      exact hends _ rfl
    | some sw =>
      have hfrom (r' : Run) (hr : r'.sweep = some sw) : frameEvent s (s.setRun r') := by
        refine .inr ⟨r, r', s, he, .inl (aside_refl s), fun sw' hsw => ?_, rfl⟩
        rw [hr, Option.some.injEq] at hsw
        subst hsw
        exact (sweepAtGuard_list s hs).imp_right fun h => ⟨sw, h, rfl⟩
      rw [endGuard_some s r f hfull sw hs]
      split
      · exact hfrom _ rfl
      · exact hfrom _ rfl

theorem guardExpiry_frameEvent : frameEvent s s.guardExpiry := by
  unfold State.guardExpiry
  split
  · rename_i r he
    split
    · split
      · exact endGuard_frameEvent s r _ he
      all_goals exact .inl (aside_refl s)
    · exact .inl (aside_refl s)
  all_goals exact .inl (aside_refl s)

theorem trackingEnd_frameEvent (r : Run) (f : Frame) (cur : TrackRead) (rest : List TrackRead)
    (got : List (TrackRead × Reading)) (reading : Reading) (he : s.engine = .scanning r) :
    frameEvent s (s.trackingEnd r f cur rest got reading) := by
  unfold State.trackingEnd
  split
  · exact frameEvent_setRun s he (aside_refl s) rfl
  · exact .inr ⟨r, { r with frame := some { f with stage := .guarding guardTime } }, _, he, .inr (.inl ⟨_, rfl⟩),
      sweepFrom_same s rfl, rfl⟩

theorem searchEnd_frameEvent (r : Run) (f : Frame) (budget : Nat) (sw : Sweep) (reading : Reading)
    (he : s.engine = .scanning r) (hs : r.sweep = some sw) : frameEvent s (s.searchEnd r f budget sw reading) := by
  unfold State.searchEnd
  extract_lets kept
  have hkept : kept.list = sw.list := by
    unfold kept
    split <;> rfl
  split
  · exact .inr ⟨r, { r with frame := none, sweep := none }, _, he, .inr (.inr ⟨sw, kept, hs, hkept, rfl⟩),
      sweepFrom_none s rfl, rfl⟩
  · have hmoved (r' : Run) (c : SearchCursor) (hr : r'.sweep = some { kept with cursor := c }) : frameEvent s (s.setRun r') :=
      .inr ⟨r, r', s, he, .inl (aside_refl s), sweepFrom_moved s hs (sw' := { kept with cursor := c }) hkept hr, rfl⟩
    dsimp only
    split
    · exact hmoved _ _ rfl
    · exact hmoved _ _ rfl

theorem readingEnd_frameEvent (reading : Reading) : frameEvent s (s.readingEnd reading) := by
  unfold State.readingEnd
  split
  · rename_i r he
    split
    · split
      · exact trackingEnd_frameEvent s r _ _ _ _ reading he
      · split
        · exact searchEnd_frameEvent s r _ _ _ reading he ‹_›
        · exact .inl (aside_refl s)
      all_goals exact .inl (aside_refl s)
    · exact .inl (aside_refl s)
  all_goals exact .inl (aside_refl s)

/-- One move of the engine, or none: a request that acts on it or on the items, the withdrawal of a port, the end of a coil
sensing, or an event of a frame. -/
inductive EngineMove (s : State) : State → Prop
  | none : EngineMove s s
  | hold (p : PortId) : EngineMove s (s.holdEffect p)
  | release (p : PortId) (h : s.hold.has p = true) : EngineMove s (s.releaseEffect p)
  | run (p : PortId) : EngineMove s (s.runEffect p)
  | stop (p : PortId) : EngineMove s (s.stopEffect p)
  | withdraw (p : PortId) : EngineMove s (s.withdraw p)
  | store (i : Item) (v w : Nat) (he : s.engine = .halted) (ha : i.accept v = some w) : EngineMove s (s.storeItem i w)
  | coilSensing (level : Nat) : EngineMove s (s.coilSensingEnd level)
  | frame {t : State} (h : frameEvent s t) : EngineMove s t

/-- From `s` to `t` there is one move of the engine, or none, and beside it nothing of the engine changes. -/
def moves (s t : State) : Prop := ∃ u v, aside s u ∧ EngineMove u v ∧ aside v t

theorem moves_of_aside {s t : State} (h : aside s t) : moves s t := ⟨s, s, aside_refl s, .none, h⟩

theorem moves_of_move {s t : State} (h : EngineMove s t) : moves s t := ⟨s, t, aside_refl s, h, aside_refl t⟩

theorem aside_moves {s t u : State} (h : aside s t) (k : moves t u) : moves s u := by
  obtain ⟨v, w, hv, hm, hw⟩ := k
  exact ⟨v, w, aside_trans h hv, hm, hw⟩

theorem moves_aside {s t u : State} (h : moves s t) (k : aside t u) : moves s u := by
  obtain ⟨v, w, hv, hm, hw⟩ := h
  exact ⟨v, w, hv, hm, aside_trans hw k⟩

/-! ## Every command as a move -/

theorem moves_onRequest {f : State → Answer} (h : moves s (f s).state) : moves s (s.onRequest p f) := by
  unfold State.onRequest
  split
  · exact moves_aside h (aside_setPort _ p _)
  all_goals exact moves_of_aside (aside_refl s)

theorem moves_dropClaims : moves s (s.dropClaims p) :=
  moves_aside (moves_of_move (.withdraw p)) (aside_releaseClaims _ p)

theorem moves_answerPortReset : moves s (s.answerPortReset p).state :=
  moves_aside (moves_dropClaims s p) (aside_trans (aside_setPort _ p _) (aside_setPort _ p.other _))

theorem moves_answerRelease : moves s (s.answerRelease p).state := by
  unfold State.answerRelease
  split
  · exact moves_of_move (.release p ‹_›)
  · exact moves_of_aside (aside_refl s)

theorem moves_answerConfigWrite (id : Byte) (value : Half) : moves s (s.answerConfigWrite p id value).state := by
  have hsame : moves s s := moves_of_aside (aside_refl s)
  unfold State.answerConfigWrite
  dsimp only
  split
  · exact hsame
  · rename_i he
    split
    · exact hsame
    · split
      · exact hsame
      · split
        · exact hsame
        · split
          · exact hsame
          · exact moves_of_move (.store _ _ _ (not_not.mp he) ‹_›)

/-- A complete request is a move. -/
theorem runRequest_moves (i : Instr) (h : runRequest i s = .next t) : moves s t := by
  have hring (p : PortId) (f : State → Answer) (hf : ringRequest i = some (p, f)) : moves s t := by
    cases (runRequest_ringRequest s p hf).symm.trans h
    exact moves_of_aside (aside_of_ringOnly (s.onRequest_ringOnly p (ringRequest_ringOnly s p hf)))
  have hreq (p : PortId) (f : State → Answer) (ht : runRequest i s = .next (s.onRequest p f))
      (hf : moves s (f s).state) : moves s t := by
    cases ht.symm.trans h
    exact moves_onRequest s p hf
  have haside (p : PortId) (f : State → Answer) (ht : runRequest i s = .next (s.onRequest p f))
      (hf : aside s (f s).state) : moves s t := hreq p f ht (moves_of_aside hf)
  have hsame (p : PortId) (f : State → Answer) (ht : runRequest i s = .next (s.onRequest p f)) (hf : (f s).state = s) :
      moves s t := by
    refine haside p f ht ?_
    rw [hf]
    exact aside_refl s
  have hnone (ht : runRequest i s = .next s) : moves s t := by
    cases ht.symm.trans h
    exact moves_of_aside (aside_refl s)
  cases i with
  | status p => exact hsame p _ rfl rfl
  | read p n => exact hring p _ rfl
  | mark p => exact hring p _ rfl
  | rewind p => exact hring p _ rfl
  | cursorSetup p mode ready margin => exact hring p _ rfl
  | portSetup p format order lapse enable => exact haside p _ rfl (aside_answerPortSetup s p _ _ _ _)
  | ack p conds => exact haside p _ rfl (aside_setPort s p _)
  | hold p => exact hreq p _ rfl (moves_of_move (.hold p))
  | release p => exact hreq p _ rfl (moves_answerRelease s p)
  | run p => exact hreq p _ rfl (moves_of_move (.run p))
  | stop p => exact hreq p _ rfl (moves_of_move (.stop p))
  | flush p => exact hring p _ rfl
  | portReset p => exact hreq p _ rfl (moves_answerPortReset s p)
  | configWrite p id value => exact hreq p _ rfl (moves_answerConfigWrite s p id value)
  | configRead p id => exact hsame p _ rfl (answerConfigRead_state s id)
  | curveBegin p number count => exact haside p _ rfl (aside_answerCurveBegin s p number count)
  | curveKnot p number input output => exact haside p _ rfl (aside_answerCurveKnot s p number input output)
  | curveRead p number => exact hsame p _ rfl (answerCurveRead_state s number)
  | checkReport p => exact hsame p _ rfl rfl
  | capture p trigger first second drive => exact haside p _ rfl (aside_answerCapture s p _ _ _ _)
  | captureStatus p => exact hsame p _ rfl rfl
  | captureRead p entry n fromStart => exact haside p _ rfl (aside_answerCaptureRead s p _ _ _)
  | captureRelease p entry => exact haside p _ rfl (aside_answerCaptureRelease s p _)
  | badCommand p code =>
    by_cases hc : commandCodes.contains code = true
    · exact hnone (by simp only [runRequest, execBadCommand, hc, if_true])
    · exact hsame p _ (by simp only [runRequest, execBadCommand, hc]; rfl) rfl
  | _ => exact hnone rfl

theorem aside_readPlaceBegin : aside s (s.readPlaceBegin p) := aside_of_ringOnly (s.readPlaceBegin_ringOnly p)

theorem aside_readRecordComplete : aside s (s.readRecordComplete p) := aside_of_ringOnly (s.readRecordComplete_ringOnly p)

/-- A clock edge is the request it completes, or beside the engine. -/
theorem execSclkEdge_moves (edge : ClockEdge) (mosi : Bool) (h : execSclkEdge p edge mosi s = .next t) : moves s t := by
  unfold execSclkEdge at h
  split at h
  · unfold State.requestRise at h
    dsimp only at h
    split at h
    · exact aside_moves (aside_setPort s p _) (runRequest_moves _ t _ h)
    · cases h
      exact moves_of_aside (aside_setPort s p _)
  · cases h
    exact moves_of_aside (aside_setPort s p _)
  · cases h
    refine moves_of_aside (aside_ite ?_ (aside_setPort s p _))
    exact aside_trans (aside_readRecordComplete s p) (aside_captureReadRecordComplete _ p)
  · cases h
    refine moves_of_aside (aside_trans (aside_ite ?_ (aside_refl s)) (aside_setPort _ p _))
    exact aside_trans (aside_readPlaceBegin s p) (aside_captureReadPlaceBegin _ p)
  all_goals
    cases h
    exact moves_of_aside (aside_refl s)

theorem moves_lapseTimerExpiry : moves s (s.lapseTimerExpiry p) := by
  unfold State.lapseTimerExpiry
  split
  · have hstop (f : Port → Port) : aside s (s.updPort p f) := aside_setPort s p _
    have hlapse (u : State) : moves u (u.lapse p) :=
      moves_aside (moves_dropClaims u p) (aside_trans (aside_setPort _ p _) (aside_setPort _ p.other _))
    dsimp only
    split
    · exact aside_moves (hstop _) (hlapse _)
    · exact moves_of_aside (hstop _)
  · exact moves_of_aside (aside_refl s)

/-- Every command but full reset and the tick is a move. -/
theorem exec_moves (i : Instr) (h : exec i s = .next t) (hreset : ∀ a b c d e, i ≠ .fullReset a b c d e)
    (htick : i ≠ .timestampCounterTick) : moves s t := by
  have hmove {u : State} (hu : exec i s = .next u) (hm : moves s u) : moves s t := by
    cases hu.symm.trans h
    exact hm
  have haside {u : State} (hu : exec i s = .next u) (hm : aside s u) : moves s t := hmove hu (moves_of_aside hm)
  have hframe {u : State} (hu : exec i s = .next u) (hm : frameEvent s u) : moves s t := hmove hu (moves_of_move (.frame hm))
  have hrequest (p : PortId) (hp : i.requestPort = some p) : moves s t :=
    runRequest_moves s t i ((exec_eq_runRequest s p i hp).symm.trans h)
  cases i with
  | fullReset a b c d e => exact absurd rfl (hreset a b c d e)
  | timestampCounterTick => exact absurd rfl htick
  | csFall p => exact haside rfl (aside_csFall s p)
  | csRise p => exact haside rfl (aside_setPort s p _)
  | transactionAbandoned p => exact haside rfl (aside_abandon s p)
  | lapseTimerExpiry p => exact hmove rfl (moves_lapseTimerExpiry s p)
  | frameStart => exact hframe rfl (frameStart_frameEvent s)
  | readingEnd amplitude phase => exact hframe rfl (readingEnd_frameEvent s _)
  | guardExpiry => exact hframe rfl (guardExpiry_frameEvent s)
  | coilSensingEnd level => exact hmove rfl (moves_of_move (.coilSensing _))
  | quietRise => exact hframe rfl (quietRise_frameEvent s)
  | quietFall => exact haside rfl rfl
  | quietTimerExpiry => exact hframe rfl (quietTimerExpiry_frameEvent s)
  | tsyncFall => exact haside rfl (aside_forEntries s _ fun e u => aside_triggerArmed u e .sync)
  | tsyncPulseExpiry => exact haside rfl (aside_tsyncPulseExpiry s)
  | captureCopy entry => exact haside rfl (aside_captureCopy s entry)
  | readPlaceBegin p => exact haside rfl (aside_readPlaceBegin s p)
  | readRecordComplete p => exact haside rfl (aside_readRecordComplete s p)
  | captureReadPlaceBegin p => exact haside rfl (aside_captureReadPlaceBegin s p)
  | captureReadRecordComplete p => exact haside rfl (aside_captureReadRecordComplete s p)
  | sclkEdge p edge mosi => exact execSclkEdge_moves s t p edge mosi h
  | _ => exact hrequest _ rfl

end Sys2Proof.ScanEngine
end

section
/-!
PROOFS. What the tick counts, and what every other command leaves of the counter, the tile and W: a stop writes at most three
records, a solve stage at most two (R51, R72, R103, R105, R165) (O55).
-/

namespace Sys2Proof.ScanEngine

open Sys2Proof.Machine Sys2Proof.KindsAndCurves

variable (s t : State) (p : PortId) (i : SlotId) (time : Time) (body : RecordBody)

/-! ## The work on a slot (R64, R65, R71) -/

/-- Slot `b` follows slot `a` in a frame: it is lawful if `a` was, and tracks no other kind. -/
def carriesOn (leaveCount : Nat) (a b : Slot) : Prop :=
  (a.lawful leaveCount = true → b.lawful leaveCount = true) ∧ ∀ k, b.tracks k = true → a.tracks k = true

theorem carriesOn_refl (n : Nat) (a : Slot) : carriesOn n a a := ⟨id, fun _ => id⟩

theorem carriesOn_trans {n : Nat} {a b c : Slot} (h : carriesOn n a b) (k : carriesOn n b c) : carriesOn n a c :=
  ⟨k.1 ∘ h.1, fun x => h.2 x ∘ k.2 x⟩

theorem carriesOn_free (n : Nat) (a : Slot) : carriesOn n a .free := ⟨fun _ => rfl, fun _ h => by cases h⟩

/-- From `s` to `t` slot `i` was worked on: at most one record is written, and the slot carries on. -/
def slotWork (s t : State) (i : SlotId) : Prop :=
  ∃ u x, (aside s u ∨ ∃ time body, aside (s.append time body) u) ∧ carriesOn s.items.leaveCount (s.slot i) x
    ∧ t = u.setSlot i x

theorem leave_slotWork (x : Track) : slotWork s (s.leave i x time) i := by
  have hfree := carriesOn_free s.items.leaveCount (s.slot i)
  obtain ⟨-, h⟩ | ⟨v, -, -, h⟩ := s.leave_cases time i x
  · exact ⟨s, .free, .inl (aside_refl s), hfree, h⟩
  · exact ⟨(s.append time (.stroke .leave (leaveOf i x v))).raiseBoth .prox, .free, .inr ⟨time, _, rfl⟩, hfree, h⟩

theorem setSlot_self : s.setSlot i (s.slot i) = s := by cases i <;> rfl

theorem slotWork_refl : slotWork s s i :=
  ⟨s, s.slot i, .inl (aside_refl s), carriesOn_refl _ _, (setSlot_self s i).symm⟩

theorem closeSlot_slotWork : slotWork s (s.closeSlot i time) i := by
  obtain ⟨-, h⟩ | ⟨x, -, h⟩ := s.closeSlot_cases time i <;> rw [h]
  · exact slotWork_refl s i
  · exact leave_slotWork s i time x

theorem recentre_kind (x : Track) (sm : Sample) : (x.recentre sm).kind = x.kind := by
  rw [recentre_eq]

/-- A slot is lawful by its first-frame flag, its last good sample and its miss count, which recentring does not touch. -/
theorem lawful_recentre (n : Nat) (x : Track) (sm : Sample) :
    (Slot.tracking (x.recentre sm)).lawful n = (Slot.tracking x).lawful n := by
  rw [recentre_eq]
  rfl

theorem tracks_recentre (k : Fin 4) (x : Track) (sm : Sample) :
    (Slot.tracking (x.recentre sm)).tracks k = (Slot.tracking x).tracks k := by
  rw [Slot.tracks, recentre_kind, Slot.tracks]

theorem carriesOn_good (items : Items) (x : Track) (sm : Sample) :
    carriesOn items.leaveCount (.tracking x) (.tracking ((x.good items sm).recentre sm)) := by
  refine ⟨fun h => ?_, fun k h => by rwa [tracks_recentre] at h⟩
  obtain ⟨-, hmiss⟩ : (x.first || x.lastGood.isSome) = true ∧ x.miss < items.leaveCount := by
    simpa only [Slot.lawful, Bool.and_eq_true, decide_eq_true_eq] using h
  have hpos : 0 < items.leaveCount := by omega
  rw [lawful_recentre]
  simp [Slot.lawful, Track.good, hpos]

theorem carriesOn_missed {n : Nat} {x : Track} (sm : Sample) (h : x.miss + 1 ≠ n) :
    carriesOn n (.tracking x) (.tracking (missed x sm)) := by
  refine ⟨fun hx => ?_, fun k hk => by rwa [missed, tracks_recentre] at hk⟩
  obtain ⟨hfirst, hmiss⟩ : (x.first || x.lastGood.isSome) = true ∧ x.miss < n := by
    simpa only [Slot.lawful, Bool.and_eq_true, decide_eq_true_eq] using hx
  have hlt : x.miss + 1 < n := by omega
  rw [missed, lawful_recentre]
  simp only [Slot.lawful, hfirst, hlt, decide_true, Bool.and_self]

theorem goodFrame_slotWork {x : Track} (sm : Sample) (hs : s.slot i = .tracking x) :
    slotWork s (s.goodFrame i x sm time) i := by
  have hafter (u v : State) (c d : Bool) (h : aside v u) :
      aside v (if d then (if c then u.raiseBoth .prox else u).contactEvent else if c then u.raiseBoth .prox else u) := by
    have hraised : aside v (if c then u.raiseBoth .prox else u) := aside_ite (aside_trans h rfl) h
    exact aside_ite (aside_trans hraised (aside_contactEvent _)) hraised
  exact ⟨_, _, .inr ⟨time, _, hafter _ _ x.first _ (aside_refl _)⟩, hs ▸ carriesOn_good s.items x sm, rfl⟩

theorem faintFrame_slotWork {x : Track} (sm : Sample) (hs : s.slot i = .tracking x) :
    slotWork s (s.faintFrame i x sm time) i := by
  by_cases hm : x.miss + 1 = s.items.leaveCount
  · rw [faintFrame_leaves s i x sm time hm]
    exact leave_slotWork s i time x
  · have hcarries := hs ▸ carriesOn_missed sm hm
    unfold State.faintFrame
    dsimp only
    rw [if_neg hm]
    split
    · exact ⟨_, _, .inr ⟨time, _, aside_refl _⟩, hcarries, rfl⟩
    · exact ⟨s, _, .inl (aside_refl s), hcarries, rfl⟩

theorem solveSlot_slotWork (got : List (TrackRead × Reading)) : slotWork s (s.solveSlot got time i) i := by
  obtain ⟨-, h⟩ | ⟨x, hs, ⟨-, h⟩ | ⟨-, h⟩⟩ := s.solveSlot_cases time i got <;> rw [h]
  · exact slotWork_refl s i
  · exact goodFrame_slotWork s i time _ hs
  · exact faintFrame_slotWork s i time _ hs

/-- The evaluation of a sweep touches the slots alone (R61). -/
def slotsOnly (s t : State) : Prop := t = { s with slot0 := t.slot0, slot1 := t.slot1 }

theorem slotsOnly_allocate (c : Candidate) : slotsOnly s (s.allocate c) := by
  unfold State.allocate
  split <;> rfl

theorem slotsOnly_foldl (cs : List Candidate) : slotsOnly s (cs.foldl State.allocate s) := by
  induction cs generalizing s with
  | nil => rfl
  | cons c rest ih =>
    have hfirst := slotsOnly_allocate s c
    have hrest := ih (s.allocate c)
    unfold slotsOnly at *
    rw [List.foldl_cons, hrest, hfirst]

theorem slotsOnly_evaluateSweep (sw : Sweep) : slotsOnly s (s.evaluateSweep sw) := slotsOnly_foldl s _

/-! ## The counter, the tile and W -/

/-- The counter and the tile stand, and W rises by at most `n`. -/
def advances (s t : State) (n : Nat) : Prop :=
  t.tile = s.tile ∧ t.counter = s.counter ∧ ∃ m ≤ n, t.ring.w = s.ring.w + BitVec.ofNat 32 m

theorem advances_trans {s t u : State} {m n : Nat} (h : advances s t m) (k : advances t u n) : advances s u (m + n) := by
  obtain ⟨htile, hcounter, a, ha, hw⟩ := h
  obtain ⟨ktile, kcounter, b, hb, kw⟩ := k
  refine ⟨ktile.trans htile, kcounter.trans hcounter, a + b, by omega, ?_⟩
  rw [kw, hw, BitVec.ofNat_add, BitVec.add_assoc]

theorem advances_le {s t : State} {m n : Nat} (h : advances s t m) (hmn : m ≤ n) : advances s t n := by
  obtain ⟨htile, hcounter, a, ha, hw⟩ := h
  exact ⟨htile, hcounter, a, by omega, hw⟩

/-- A change that touches none of the three. -/
theorem advances_still {s t : State} (htile : t.tile = s.tile) (hcounter : t.counter = s.counter)
    (hw : t.ring.w = s.ring.w) : advances s t 0 :=
  ⟨htile, hcounter, 0, le_refl 0, by simp [hw]⟩

theorem advances_of_aside {s t : State} (h : aside s t) : advances s t 0 := by
  unfold aside at h
  rw [h]
  exact advances_still rfl rfl rfl

theorem advances_append : advances s (s.append time body) 1 :=
  ⟨s.append_tile time body, s.append_counter time body, 1, le_refl 1, by rw [State.append_ring]; rfl⟩

theorem advances_slotWork {s t : State} {i : SlotId} (h : slotWork s t i) : advances s t 1 := by
  obtain ⟨u, x, hu, -, rfl⟩ := h
  have hset : advances u (u.setSlot i x) 0 := advances_still (by simp) (by simp) (by simp)
  obtain hu | ⟨time, body, hu⟩ := hu
  · exact advances_le (advances_trans (advances_of_aside hu) hset) (by omega)
  · exact advances_trans (advances_trans (advances_append s time body) (advances_of_aside hu)) hset

theorem advances_takeTogether (busy : List PortId) : advances s (s.takeTogether busy) 0 :=
  advances_of_aside (aside_takeTogether s busy)

/-- A stop of frames writes at most the LEAVE of each slot and the BREAK (R71, R72). -/
theorem advances_stopFrames (r : Run) (cause : BreakCause) (e : Engine) : advances s (s.stopFrames p r cause e) 3 := by
  have hclose (u : State) (i : SlotId) : advances u ((u.closeSlot i r.start).takeTogether [p]) 1 :=
    advances_trans (advances_slotWork (closeSlot_slotWork u i r.start)) (advances_takeTogether _ [p])
  have hbreak (u : State) : advances u ((u.append u.counter (.brk cause)).toEngine e) 1 :=
    advances_trans (advances_append u u.counter (.brk cause)) (advances_still rfl rfl rfl)
  exact advances_trans (advances_trans (hclose s .s0) (hclose _ .s1)) (hbreak _)

theorem advances_startCheck : advances s s.startCheck 0 := by
  obtain ⟨-, -, -, -, -, hframe⟩ := startCheck_checkStarted s
  rw [hframe]
  exact advances_still rfl rfl rfl

theorem advances_completeCheck (failed : Bool) : advances s (s.completeCheck failed) 0 := by
  obtain ⟨-, h⟩ | ⟨-, -, h⟩ | ⟨-, -, h⟩ := s.completeCheck_cases failed <;> rw [h]
  all_goals exact advances_still rfl rfl rfl

theorem advances_coilSensingEnd (level : Nat) : advances s (s.coilSensingEnd level) 0 := by
  have hclassify (pass : SensePass) : advances s (s.classifyCoil pass level).1 0 := by
    unfold State.classifyCoil
    split <;> exact advances_still rfl rfl rfl
  unfold State.coilSensingEnd
  split
  · rename_i pass _
    dsimp only
    split
    · split
      · exact hclassify pass
      · let after := s.classifyCoil pass level
        have hdone := advances_completeCheck { after.1 with map := { after.1.map with valid := true } } after.2.failed
        exact advances_trans (hclassify pass) hdone
    · exact advances_still rfl rfl rfl
  all_goals exact advances_still rfl rfl rfl

theorem advances_storeItem (x : Item) (v : Nat) : advances s (s.storeItem x v) 0 := by
  unfold State.storeItem
  dsimp only
  split
  · exact advances_still (by simp [State.geometryFlush, State.forPorts, State.clampThresholds])
      (by simp [State.geometryFlush, State.forPorts, State.clampThresholds])
      (by simp [State.geometryFlush, State.forPorts, State.clampThresholds])
  · split <;> exact advances_still rfl rfl rfl

/-- What the events of a frame do writes at most one record for each slot (R51). -/
theorem advances_workedBy {r : Run} {u : State} (h : workedBy s r u) : advances s u 2 := by
  obtain h | ⟨got, rfl⟩ | ⟨sw, kept, -, -, rfl⟩ := h
  · exact advances_le (advances_of_aside h) (by omega)
  · exact advances_trans (advances_trans (advances_slotWork (solveSlot_slotWork s .s0 r.start got))
      (advances_takeTogether _ [])) (advances_slotWork (solveSlot_slotWork _ .s1 r.start got))
  · have h := slotsOnly_evaluateSweep s kept
    unfold slotsOnly at h
    rw [h]
    exact advances_le (advances_still rfl rfl rfl) (by omega)

theorem advances_frameEvent {s t : State} (h : frameEvent s t) : advances s t 2 := by
  obtain h | ⟨r, r', u, -, hu, -, rfl⟩ := h
  · exact advances_le (advances_of_aside h) (by omega)
  · exact advances_trans (advances_workedBy s hu) (advances_still (t := u.setRun r') rfl rfl rfl)

theorem advances_holdEffect : advances s (s.holdEffect p) 3 := by
  have hstill {u : State} (h : advances s u 0) : advances s u 3 := advances_le h (by omega)
  unfold State.holdEffect
  split
  · exact hstill (advances_still rfl rfl rfl)
  · exact hstill (advances_still rfl rfl rfl)
  · exact hstill (advances_still rfl rfl rfl)
  · exact advances_stopFrames { s with hold := s.hold.insert p } p _ _ _

theorem advances_stopEffect : advances s (s.stopEffect p) 3 := by
  have hleft : advances s { s with run := s.run.erase p } 3 := advances_le (advances_still rfl rfl rfl) (by omega)
  unfold State.stopEffect
  dsimp only
  split
  · split
    · exact advances_stopFrames { s with run := s.run.erase p } p _ _ _
    · exact hleft
  all_goals exact hleft

theorem advances_releaseEffect : advances s (s.releaseEffect p) 0 := by
  unfold State.releaseEffect
  dsimp only
  split
  · exact advances_startCheck { s with hold := s.hold.erase p }
  · exact advances_still rfl rfl rfl

theorem advances_runEffect : advances s (s.runEffect p) 0 := by
  unfold State.runEffect
  split <;> exact advances_still rfl rfl rfl

theorem advances_withdraw : advances s (s.withdraw p) 3 := by
  have hstill {u : State} (h : advances s u 0) : advances s u 3 := advances_le h (by omega)
  obtain ⟨-, -, h⟩ | h | ⟨-, -, -, h⟩ | ⟨r, -, -, h⟩ := s.withdraw_cases p <;> rw [h]
  · exact hstill (advances_still rfl rfl rfl)
  · exact hstill (advances_still rfl rfl rfl)
  · exact hstill (advances_startCheck { s with hold := s.hold.erase p, run := s.run.erase p })
  · exact advances_stopFrames { s with hold := s.hold.erase p, run := s.run.erase p } p r _ _

theorem advances_move {s t : State} (h : EngineMove s t) : advances s t 3 := by
  have hstill {u : State} {n : Nat} (h : advances s u n) (hn : n ≤ 3) : advances s u 3 := advances_le h hn
  cases h with
  | none => exact hstill (advances_still rfl rfl rfl) (by omega)
  | hold p => exact advances_holdEffect s p
  | release p _ => exact hstill (advances_releaseEffect s p) (by omega)
  | run p => exact hstill (advances_runEffect s p) (by omega)
  | stop p => exact advances_stopEffect s p
  | withdraw p => exact advances_withdraw s p
  | store x v w _ _ => exact hstill (advances_storeItem s x w) (by omega)
  | coilSensing level => exact hstill (advances_coilSensingEnd s level) (by omega)
  | frame h => exact hstill (advances_frameEvent h) (by omega)

/-- No command but full reset and the tick moves the counter or the tile, and W rises by at most 3. -/
theorem exec_advances (j : Instr) (h : exec j s = .next t) (hreset : ∀ a b c d e, j ≠ .fullReset a b c d e)
    (htick : j ≠ .timestampCounterTick) : advances s t 3 := by
  obtain ⟨u, v, hu, hm, hv⟩ := exec_moves s t j h hreset htick
  exact advances_trans (advances_trans (advances_of_aside hu) (advances_move hm)) (advances_of_aside hv)

/-! ## The tick (R165) -/

theorem tick_port : s.tick.port p = (s.port p).tick := by cases p <;> rfl

/-- Settles O55: the tick timer by timer, and every other command by the records it writes. -/
theorem timeAndHistoryAdvance : Obligations.TimeAndHistoryAdvance := by
  refine ⟨fun s => ⟨s.tick, rfl, rfl, rfl, fun pass he => ?_, fun hn hp => ?_, fun r he hf => ?_, fun r f he hf => ?_,
    fun p => ?_, rfl⟩, fun i s t h hreset => ?_⟩
  · simp only [State.tick, he, Engine.tick]
  · cases he : s.engine with
    | halted => simp only [State.tick, he, Engine.tick]
    | checking pass => exact absurd he (hp pass)
    | idle => simp only [State.tick, he, Engine.tick]
    | scanning r => simp [he, Engine.isScanning] at hn
  · obtain ⟨start, frame, sweep⟩ := r
    obtain rfl : frame = none := hf
    simp only [State.tick, he, Engine.tick, Option.map_none]
  · simp only [State.tick, he, Engine.tick, hf, Option.map_some]
    rcases hst : f.stage with ⟨cur, rest, got, since | left⟩ | left | ⟨budget, since | left⟩ <;> rfl
  · refine (tick_port s p).trans ?_
    unfold Port.tick
    cases (s.port p).framing <;> rfl
  · by_cases ht : i = .timestampCounterTick
    · subst ht
      cases h
      exact ⟨rfl, fun hne => absurd rfl hne, 0, by omega, by simp [State.tick]⟩
    · obtain ⟨htile, hcounter, hw⟩ := exec_advances s t i h hreset ht
      exact ⟨htile, fun _ => hcounter, hw⟩

end Sys2Proof.ScanEngine
end

section
/-!
PROOFS. The reduction of the candidates of a sweep: of each kind at most one end is kept, and none of a tracked kind (R59 to R61).
-/

namespace Sys2Proof.ScanEngine

open Sys2Proof.Machine Sys2Proof.KindsAndCurves

variable (s : State) (got : List SweepReading)

/-- The channel of an end of a kind (R19). -/
def endChannel (items : Items) (k : Fin 4) : ToolEnd → Option Chan
  | .tip => some (items.kind k).tip
  | .eraser => (items.kind k).eraser

/-- A candidate is found on the channel of its end. -/
theorem endChannel_of_candidate {c : Chan} {d : Candidate} (h : s.candidate got c = some d) :
    endChannel s.items d.kind d.toolEnd = some c := by
  unfold State.candidate at h
  dsimp only at h
  split at h
  · obtain ⟨⟨k, x⟩, hfound, rfl⟩ := Option.map_eq_some_iff.mp h
    obtain ⟨k', -, hk⟩ := List.exists_of_findSome?_eq_some hfound
    dsimp only at hk
    split at hk
    · split at hk
      · rename_i htip
        cases hk
        exact congrArg some htip
      · split at hk
        · rename_i heraser
          cases hk
          exact heraser
        · cases hk
    · cases hk
  · cases h

/-- Two candidates for different ends. -/
def otherEnd (c d : Candidate) : Prop := c.kind = d.kind → c.toolEnd ≠ d.toolEnd

/-- The candidates of different channels are for different ends (R19). -/
theorem candidates_otherEnd {list : List Chan} (h : list.Nodup) :
    (list.filterMap (s.candidate got)).Pairwise otherEnd := by
  refine List.Pairwise.filterMap (s.candidate got) (fun a b hab c hc d hd hk hx => hab ?_) h
  have ha := endChannel_of_candidate s got hc
  have hb := endChannel_of_candidate s got hd
  rw [hk, hx, hb, Option.some.injEq] at ha
  exact ha.symm

/-- Of two ends of one kind one is beaten by the other (R60). -/
theorem beatenBy_of_sameKind {c d : Candidate} (hk : c.kind = d.kind) (hx : c.toolEnd ≠ d.toolEnd) :
    c.beatenBy d = true ∨ d.beatenBy c = true := by
  have hc : c.beatenBy d = (decide (c.strength < d.strength) || (d.strength == c.strength && d.toolEnd == .tip)) := by
    simp [Candidate.beatenBy, hk, hx.symm]
  have hd : d.beatenBy c = (decide (d.strength < c.strength) || (c.strength == d.strength && c.toolEnd == .tip)) := by
    simp [Candidate.beatenBy, hk, hx]
  rw [hc, hd]
  obtain hlt | heq | hgt := Nat.lt_trichotomy c.strength d.strength
  · simp [hlt]
  · have htip : c.toolEnd = .tip ∨ d.toolEnd = .tip := by
      cases hct : c.toolEnd <;> cases hdt : d.toolEnd <;> simp_all
    obtain h | h := htip <;> simp [heq, h]
  · simp [hgt]

/-- The first reduction of R60 leaves one end of each kind. -/
theorem oneEnd_pairwise {found : List Candidate} (h : found.Pairwise otherEnd) :
    (found.filter fun c => !found.any c.beatenBy).Pairwise fun c d => c.kind ≠ d.kind := by
  rw [List.pairwise_filter]
  refine h.imp_of_mem fun {c d} hc hd hends hkeep hkeep' hk => ?_
  have hnot {a b : Candidate} (hb : b ∈ found) (ha : (!found.any a.beatenBy) = true) : a.beatenBy b ≠ true := by
    intro hbeaten
    rw [List.any_eq_true.mpr ⟨b, hb, hbeaten⟩] at ha
    cases ha
  exact (beatenBy_of_sameKind hk (hends hk)).elim (hnot hd hkeep) (hnot hc hkeep')

theorem insertCandidate_perm (c : Candidate) (l : List Candidate) : (insertCandidate c l).Perm (c :: l) := by
  induction l with
  | nil => exact List.Perm.refl _
  | cons d rest ih =>
    unfold insertCandidate
    split
    · exact List.Perm.refl _
    · exact (ih.cons d).trans (List.Perm.swap c d rest)

theorem foldr_insertCandidate_perm (l : List Candidate) : (l.foldr insertCandidate []).Perm l := by
  induction l with
  | nil => exact List.Perm.refl _
  | cons c rest ih => exact (insertCandidate_perm c _).trans (ih.cons c)

/-- The candidates that are allocated are of kinds that no slot tracks, each kind once (R60, R61). -/
def freshKinds (s : State) (cs : List Candidate) : Prop :=
  cs.Pairwise (fun c d => c.kind ≠ d.kind) ∧ ∀ c ∈ cs, s.kindTracked c.kind = false

theorem freshKinds_candidates {list : List Chan} (h : list.Nodup) : freshKinds s (s.candidates list got) := by
  have hperm := foldr_insertCandidate_perm
    (((list.filterMap (s.candidate got)).filter fun c => !(list.filterMap (s.candidate got)).any c.beatenBy).filter
      fun c => !s.kindTracked c.kind)
  refine ⟨?_, fun c hc => ?_⟩
  · exact (hperm.pairwise_iff fun hne => Ne.symm hne).mpr
      ((oneEnd_pairwise (candidates_otherEnd s got h)).filter _)
  · simpa using (List.mem_filter.mp (hperm.mem_iff.mp hc)).2

end Sys2Proof.ScanEngine
end

section
/-!
PROOFS. Every step keeps the law of the engine with its sets, and the law of the slots (R33, R53, R57, R61, R65, R66) (O58).
-/

namespace Sys2Proof.ScanEngine

open Sys2Proof.Machine Sys2Proof.KindsAndCurves

variable (s t u : State) (p : PortId) (i : SlotId)

/-! ## The two laws, and what they read of a state -/

theorem engineLaw_of_halted (h : s.engine = .halted) : s.engineLaw = true := by
  simp only [State.engineLaw, h]

theorem engineLaw_of_checking {pass : SensePass} (h : s.engine = .checking pass) (hh : s.hold.isEmpty = true) :
    s.engineLaw = true := by
  simp only [State.engineLaw, h, hh]

theorem engineLaw_of_idle (h : s.engine = .idle) (hh : s.hold.isEmpty = true) (hr : s.run.isEmpty = true) :
    s.engineLaw = true := by
  simp only [State.engineLaw, h, hh, hr, Bool.and_self]

theorem engineLaw_of_scanning {r : Run} (h : s.engine = .scanning r) (hh : s.hold.isEmpty = true)
    (hr : s.run.isEmpty = false) : s.engineLaw = true := by
  simp only [State.engineLaw, h, hh, hr, Bool.not_false, Bool.and_self]

theorem hold_of_checking {pass : SensePass} (h : s.engineLaw = true) (he : s.engine = .checking pass) :
    s.hold.isEmpty = true := by
  simpa only [State.engineLaw, he] using h

theorem sets_of_idle (h : s.engineLaw = true) (he : s.engine = .idle) : s.hold.isEmpty = true ∧ s.run.isEmpty = true := by
  simpa only [State.engineLaw, he, Bool.and_eq_true] using h

theorem sets_of_scanning {r : Run} (h : s.engineLaw = true) (he : s.engine = .scanning r) :
    s.hold.isEmpty = true ∧ s.run.isEmpty = false := by
  simpa only [State.engineLaw, he, Bool.and_eq_true, Bool.not_eq_true'] using h

theorem not_isEmpty_of_has (a : PortSet) (h : a.has p = true) : a.isEmpty = false := by
  cases p <;> (simp only [PortSet.has] at h; simp [PortSet.isEmpty, h])

theorem not_isEmpty_insert (a : PortSet) : (a.insert p).isEmpty = false := by
  cases p <;> simp [PortSet.insert, PortSet.isEmpty]

theorem isEmpty_erase {a : PortSet} (h : a.isEmpty = true) : (a.erase p).isEmpty = true := by
  rw [(isEmpty_iff a).mp h]
  cases p <;> rfl

/-- While a port holds the engine is HALTED (R33). -/
theorem halted_of_held (h : s.engineLaw = true) (hh : s.hold.has p = true) : s.engine = .halted := by
  have hne := not_isEmpty_of_has p s.hold hh
  cases he : s.engine with
  | halted => rfl
  | checking pass => rw [hold_of_checking s h he] at hne; cases hne
  | idle => rw [(sets_of_idle s h he).1] at hne; cases hne
  | scanning r => rw [(sets_of_scanning s h he).1] at hne; cases hne

theorem engineLaw_of_aside {s t : State} (h : aside s t) (hs : s.engineLaw = true) : t.engineLaw = true := by
  unfold aside at h
  rw [h]
  exact hs

/-- The law of the two slots beside each other (R61, R65, R66). -/
def pairLaw (s : State) : Prop :=
  (∀ k, ¬ (s.slot0.tracks k = true ∧ s.slot1.tracks k = true)) ∧ 1 ≤ s.items.leaveCount
  ∧ s.slot0.lawful s.items.leaveCount = true ∧ s.slot1.lawful s.items.leaveCount = true

theorem pairLaw_of_slotLaw {s : State} (h : s.slotLaw) : pairLaw s := by
  obtain ⟨-, hkinds, hcount, h0, h1, -⟩ := h
  exact ⟨hkinds, hcount, h0, h1⟩

theorem slotLaw_of_scanning {s : State} {r : Run} (he : s.engine = .scanning r) (h : pairLaw s)
    (hsweep : ∀ sw, r.sweep = some sw → sw.list.Nodup) : s.slotLaw := by
  obtain ⟨hkinds, hcount, h0, h1⟩ := h
  refine ⟨fun hn => ?_, hkinds, hcount, h0, h1, ?_⟩
  · rw [he] at hn
    cases hn
  · rw [he]
    exact hsweep

/-- With both slots FREE and no sweep in progress the law asks no more than a leave count. -/
theorem slotLaw_of_free {s : State} (h0 : s.slot0 = .free) (h1 : s.slot1 = .free) (hcount : 1 ≤ s.items.leaveCount)
    (hsweep : s.engine.sweep = none) : s.slotLaw := by
  refine ⟨fun _ => ⟨h0, h1⟩, fun k h => ?_, hcount, by rw [h0]; rfl, by rw [h1]; rfl, fun sw h => ?_⟩
  · rw [h0] at h
    cases h.1
  · rw [hsweep] at h
    cases h

/-- The law of the slots reads the engine only for whether it is SCANNING and for its sweep. -/
theorem slotLaw_congr {s t : State} (hscan : t.engine.isScanning = s.engine.isScanning)
    (hsweep : t.engine.sweep = s.engine.sweep) (h0 : t.slot0 = s.slot0) (h1 : t.slot1 = s.slot1)
    (hitems : t.items = s.items) (h : s.slotLaw) : t.slotLaw := by
  unfold State.slotLaw
  rw [hscan, hsweep, h0, h1, hitems]
  exact h

theorem slotLaw_of_aside {s t : State} (h : aside s t) (hs : s.slotLaw) : t.slotLaw := by
  unfold aside at h
  rw [h]
  exact hs

/-! ## Frames stop (R55, R71) -/

theorem stopFrames_engine (r : Run) (cause : BreakCause) (e : Engine) : (s.stopFrames p r cause e).engine = e := by
  rw [stopFrames_appendsOnly s p cause r e]

theorem stopFrames_hold (r : Run) (cause : BreakCause) (e : Engine) : (s.stopFrames p r cause e).hold = s.hold := by
  rw [stopFrames_appendsOnly s p cause r e]

theorem stopFrames_run (r : Run) (cause : BreakCause) (e : Engine) : (s.stopFrames p r cause e).run = s.run := by
  rw [stopFrames_appendsOnly s p cause r e]

theorem stopFrames_items (r : Run) (cause : BreakCause) (e : Engine) : (s.stopFrames p r cause e).items = s.items := by
  rw [stopFrames_appendsOnly s p cause r e]

theorem slotLaw_stopFrames (r : Run) (cause : BreakCause) {e : Engine} (he : e.sweep = none)
    (hcount : 1 ≤ s.items.leaveCount) : (s.stopFrames p r cause e).slotLaw := by
  refine slotLaw_of_free (stopFrames_slot s p .s0 cause r e) (stopFrames_slot s p .s1 cause r e) ?_ ?_
  · rw [stopFrames_items]
    exact hcount
  · rw [stopFrames_engine]
    exact he

/-- Frames that stop for want of a running port leave IDLE with both sets empty (R37, R38). -/
theorem engineLaw_stopFrames_idle (r : Run) (cause : BreakCause) (hh : s.hold.isEmpty = true) (hr : s.run.isEmpty = true) :
    (s.stopFrames p r cause .idle).engineLaw = true := by
  refine engineLaw_of_idle _ (stopFrames_engine s p r cause .idle) ?_ ?_
  · rw [stopFrames_hold]
    exact hh
  · rw [stopFrames_run]
    exact hr

/-! ## The check (R40, R43) -/

/-- The hold and run sets, the items and the slots as they were. -/
def besideCheck (s t : State) : Prop :=
  t.items = s.items ∧ t.hold = s.hold ∧ t.run = s.run ∧ t.slot0 = s.slot0 ∧ t.slot1 = s.slot1

/-- A check goes on with a sensing pass, or completes. -/
def checkGoes (s t : State) : Prop :=
  ∃ v, besideCheck s v ∧ ((∃ pass, t = { v with engine := .checking pass }) ∨ ∃ failed, t = v.completeCheck failed)

theorem startArrayCheck_checkGoes : checkGoes s s.startArrayCheck := by
  obtain ⟨-, h⟩ | ⟨-, h⟩ := s.startArrayCheck_cases
  · exact ⟨{ s with map := DefectMap.invalid }, ⟨rfl, rfl, rfl, rfl, rfl⟩, .inl ⟨_, h⟩⟩
  · exact ⟨{ s with report := s.report.addAll (deriveFindings s.map s.items.maxDefects) }, ⟨rfl, rfl, rfl, rfl, rfl⟩,
      .inr ⟨_, h⟩⟩

theorem startCheck_checkGoes : checkGoes s s.startCheck := by
  unfold State.startCheck
  dsimp only
  split
  · exact ⟨State.raiseBoth { s with report := _ } .engine, ⟨rfl, rfl, rfl, rfl, rfl⟩, .inr ⟨true, rfl⟩⟩
  · exact startArrayCheck_checkGoes (State.raiseBoth { s with report := _ } .engine)

theorem classifyCoil_besideCheck (pass : SensePass) (level : Nat) : besideCheck s (s.classifyCoil pass level).1 := by
  unfold State.classifyCoil
  split <;> exact ⟨rfl, rfl, rfl, rfl, rfl⟩

/-- The end of a coil sensing does nothing, or its check goes on. -/
theorem coilSensingEnd_cases (level : Nat) :
    s.coilSensingEnd level = s ∨ ∃ pass, s.engine = .checking pass ∧ checkGoes s (s.coilSensingEnd level) := by
  unfold State.coilSensingEnd
  split
  · rename_i pass he
    have hclassified := classifyCoil_besideCheck s pass level
    let after := (s.classifyCoil pass level).1
    dsimp only
    split
    · refine .inr ⟨pass, he, ?_⟩
      split
      · exact ⟨after, hclassified, .inl ⟨_, rfl⟩⟩
      · exact ⟨{ after with map := { after.map with valid := true } }, hclassified, .inr ⟨_, rfl⟩⟩
    · exact .inl rfl
  all_goals exact .inl rfl

theorem engineLaw_completeCheck (failed : Bool) (hh : s.hold.isEmpty = true) :
    (s.completeCheck failed).engineLaw = true := by
  obtain ⟨-, h⟩ | ⟨-, hr, h⟩ | ⟨-, hr, h⟩ := s.completeCheck_cases failed <;> rw [h]
  · exact engineLaw_of_halted _ rfl
  · exact engineLaw_of_idle _ rfl hh hr
  · exact engineLaw_of_scanning _ rfl hh hr

theorem engineLaw_checkGoes {s t : State} (h : checkGoes s t) (hh : s.hold.isEmpty = true) : t.engineLaw = true := by
  obtain ⟨v, ⟨-, hhold, -, -, -⟩, ⟨pass, rfl⟩ | ⟨failed, rfl⟩⟩ := h
  · exact engineLaw_of_checking _ rfl (hhold ▸ hh)
  · exact engineLaw_completeCheck v failed (hhold ▸ hh)

theorem slotLaw_completeCheck (failed : Bool) (h0 : s.slot0 = .free) (h1 : s.slot1 = .free)
    (hcount : 1 ≤ s.items.leaveCount) : (s.completeCheck failed).slotLaw := by
  obtain ⟨-, h⟩ | ⟨-, -, h⟩ | ⟨-, -, h⟩ := s.completeCheck_cases failed <;> rw [h]
  all_goals exact slotLaw_of_free h0 h1 hcount rfl

theorem slotLaw_checkGoes {s t : State} (h : checkGoes s t) (h0 : s.slot0 = .free) (h1 : s.slot1 = .free)
    (hcount : 1 ≤ s.items.leaveCount) : t.slotLaw := by
  obtain ⟨v, ⟨hitems, -, -, hv0, hv1⟩, ⟨pass, rfl⟩ | ⟨failed, rfl⟩⟩ := h
  · exact slotLaw_of_free (hv0.trans h0) (hv1.trans h1) (hitems ▸ hcount) rfl
  · exact slotLaw_completeCheck v failed (hv0.trans h0) (hv1.trans h1) (hitems ▸ hcount)

/-! ## The events of a frame -/

/-- The items and both sets as they were. -/
def setsKept (s t : State) : Prop := t.items = s.items ∧ t.hold = s.hold ∧ t.run = s.run

theorem setsKept_trans {s t u : State} (h : setsKept s t) (k : setsKept t u) : setsKept s u := by
  obtain ⟨hi, hh, hr⟩ := h
  obtain ⟨ki, kh, kr⟩ := k
  exact ⟨ki.trans hi, kh.trans hh, kr.trans hr⟩

/-- The items and both sets as they were, and each slot carries on. -/
def slotsCarry (s t : State) : Prop :=
  setsKept s t ∧ carriesOn s.items.leaveCount s.slot0 t.slot0 ∧ carriesOn s.items.leaveCount s.slot1 t.slot1

theorem slotsCarry_trans {s t u : State} (h : slotsCarry s t) (k : slotsCarry t u) : slotsCarry s u := by
  obtain ⟨hs, h0, h1⟩ := h
  obtain ⟨ks, k0, k1⟩ := k
  rw [hs.1] at k0 k1
  exact ⟨setsKept_trans hs ks, carriesOn_trans h0 k0, carriesOn_trans h1 k1⟩

theorem slotsCarry_of_eq {s t : State} (hs : setsKept s t) (h0 : t.slot0 = s.slot0) (h1 : t.slot1 = s.slot1) :
    slotsCarry s t :=
  ⟨hs, h0 ▸ carriesOn_refl _ _, h1 ▸ carriesOn_refl _ _⟩

theorem slotsCarry_of_aside {s t : State} (h : aside s t) : slotsCarry s t := by
  unfold aside at h
  rw [h]
  exact slotsCarry_of_eq ⟨rfl, rfl, rfl⟩ rfl rfl

theorem slotsCarry_setSlot {x : Slot} (h : carriesOn s.items.leaveCount (s.slot i) x) : slotsCarry s (s.setSlot i x) := by
  cases i
  · exact ⟨⟨rfl, rfl, rfl⟩, h, carriesOn_refl _ _⟩
  · exact ⟨⟨rfl, rfl, rfl⟩, carriesOn_refl _ _, h⟩

theorem slotsCarry_slotWork {s t : State} {i : SlotId} (h : slotWork s t i) : slotsCarry s t := by
  obtain ⟨u, x, hu, hx, rfl⟩ := h
  have hslot : setsKept s u ∧ u.slot0 = s.slot0 ∧ u.slot1 = s.slot1 := by
    obtain hu | ⟨time, body, hu⟩ := hu
    · unfold aside at hu
      rw [hu]
      exact ⟨⟨rfl, rfl, rfl⟩, rfl, rfl⟩
    · unfold aside at hu
      rw [hu]
      exact ⟨⟨s.append_items time body, s.append_hold time body, s.append_run time body⟩, s.append_slot0 time body,
        s.append_slot1 time body⟩
  obtain ⟨hsets, h0, h1⟩ := hslot
  have hi : u.slot i = s.slot i := by cases i <;> assumption
  refine slotsCarry_trans (slotsCarry_of_eq hsets h0 h1) (slotsCarry_setSlot u i ?_)
  rw [hsets.1, hi]
  exact hx

theorem pairLaw_slotsCarry {s t : State} (h : slotsCarry s t) (hs : pairLaw s) : pairLaw t := by
  obtain ⟨⟨hitems, -, -⟩, ⟨hl0, hk0⟩, ⟨hl1, hk1⟩⟩ := h
  obtain ⟨hkinds, hcount, h0, h1⟩ := hs
  unfold pairLaw
  rw [hitems]
  exact ⟨fun k hk => hkinds k ⟨hk0 k hk.1, hk1 k hk.2⟩, hcount, hl0 h0, hl1 h1⟩

/-- A slot just allocated is lawful, and tracks the kind of its candidate alone (R61). -/
theorem lawful_candidate (c : Candidate) {n : Nat} (hn : 1 ≤ n) : (Slot.tracking c.track).lawful n = true := by
  simp [Slot.lawful, Candidate.track, Nat.lt_of_succ_le hn]

theorem tracks_candidate (c : Candidate) (k : Fin 4) : (Slot.tracking c.track).tracks k = true ↔ c.kind = k := by
  simp [Slot.tracks, Candidate.track]

theorem kindTracked_eq_false (k : Fin 4) :
    s.kindTracked k = false ↔ s.slot0.tracks k = false ∧ s.slot1.tracks k = false := by
  rw [State.kindTracked, Bool.or_eq_false_iff]

/-- An allocation leaves the slots, or puts its candidate into a FREE one (R61). -/
theorem allocate_cases (c : Candidate) :
    s.allocate c = s ∨ ∃ i, s.slot i = .free ∧ s.allocate c = s.setSlot i (.tracking c.track) := by
  unfold State.allocate
  split
  · rename_i h0
    exact .inr ⟨.s0, h0, rfl⟩
  · rename_i h1
    exact .inr ⟨.s1, h1, rfl⟩
  · exact .inl rfl

theorem pairLaw_allocate {s : State} (c : Candidate) (hs : pairLaw s) (hc : s.kindTracked c.kind = false) :
    pairLaw (s.allocate c) := by
  obtain ⟨hkinds, hcount, h0, h1⟩ := hs
  obtain ⟨hc0, hc1⟩ := (kindTracked_eq_false s c.kind).mp hc
  have hnew := lawful_candidate c hcount
  obtain h | ⟨i, -, h⟩ := allocate_cases s c <;> rw [h]
  · exact ⟨hkinds, hcount, h0, h1⟩
  · cases i with
    | s0 =>
      refine ⟨fun k ⟨hk0, hk1⟩ => ?_, hcount, hnew, h1⟩
      obtain rfl := (tracks_candidate c k).mp hk0
      exact absurd hk1 (by rw [State.setSlot, hc1]; exact Bool.false_ne_true)
    | s1 =>
      refine ⟨fun k ⟨hk0, hk1⟩ => ?_, hcount, h0, hnew⟩
      obtain rfl := (tracks_candidate c k).mp hk1
      exact absurd hk0 (by rw [State.setSlot, hc0]; exact Bool.false_ne_true)

/-- After an allocation the kinds tracked are at most those before and the candidate's. -/
theorem kindTracked_allocate (c : Candidate) {k : Fin 4} (hk : c.kind ≠ k) (h : s.kindTracked k = false) :
    (s.allocate c).kindTracked k = false := by
  have hnew : (Slot.tracking c.track).tracks k = false := by
    rw [Bool.eq_false_iff]
    exact fun ht => hk ((tracks_candidate c k).mp ht)
  rw [kindTracked_eq_false] at h ⊢
  obtain ha | ⟨i, -, ha⟩ := allocate_cases s c <;> rw [ha]
  · exact h
  · cases i with
    | s0 => exact ⟨hnew, h.2⟩
    | s1 => exact ⟨h.1, hnew⟩

theorem pairLaw_foldl (cs : List Candidate) (hs : pairLaw s) (hf : freshKinds s cs) :
    pairLaw (cs.foldl State.allocate s) := by
  induction cs generalizing s with
  | nil => exact hs
  | cons c rest ih =>
    obtain ⟨hkinds, hfree⟩ := hf
    rw [List.pairwise_cons] at hkinds
    have hc := hfree c (List.mem_cons_self ..)
    refine ih (s.allocate c) (pairLaw_allocate c hs hc) ⟨hkinds.2, fun d hd => ?_⟩
    exact kindTracked_allocate s c (hkinds.1 d hd) (hfree d (List.mem_cons_of_mem c hd))

theorem pairLaw_evaluateSweep (sw : Sweep) (hs : pairLaw s) (hn : sw.list.Nodup) : pairLaw (s.evaluateSweep sw) :=
  pairLaw_foldl s _ hs (freshKinds_candidates s sw.got hn)

theorem slotsCarry_solveStage (got : List (TrackRead × Reading)) (start : Time) :
    slotsCarry s (((s.solveSlot got start .s0).takeTogether []).solveSlot got start .s1) :=
  slotsCarry_trans (slotsCarry_trans (slotsCarry_slotWork (solveSlot_slotWork s .s0 start got))
    (slotsCarry_of_aside (aside_takeTogether _ []))) (slotsCarry_slotWork (solveSlot_slotWork _ .s1 start got))

/-- What the events of a frame do to the slots keeps the sets and the law of the pair. -/
theorem workedBy_laws {s u : State} {r : Run} (h : workedBy s r u) :
    setsKept s u ∧ (pairLaw s → (∀ sw, r.sweep = some sw → sw.list.Nodup) → pairLaw u) := by
  obtain h | ⟨got, rfl⟩ | ⟨sw, kept, hsw, hlist, rfl⟩ := h
  · have hcarry := slotsCarry_of_aside h
    exact ⟨hcarry.1, fun hs _ => pairLaw_slotsCarry hcarry hs⟩
  · have hcarry := slotsCarry_solveStage s got r.start
    exact ⟨hcarry.1, fun hs _ => pairLaw_slotsCarry hcarry hs⟩
  · refine ⟨?_, fun hs hn => pairLaw_evaluateSweep s kept hs (hlist ▸ hn sw hsw)⟩
    rw [slotsOnly_evaluateSweep s kept]
    exact ⟨rfl, rfl, rfl⟩

theorem searchList_nodup : s.searchList.Nodup := (searchList_pairwise s).imp ne_of_lt

theorem sweepFrom_nodup {r r' : Run} (h : sweepFrom s r r') (hr : ∀ sw, r.sweep = some sw → sw.list.Nodup) :
    ∀ sw, r'.sweep = some sw → sw.list.Nodup := by
  intro sw' hsw'
  obtain hl | ⟨sw, hsw, hl⟩ := h sw' hsw'
  · exact hl ▸ searchList_nodup s
  · exact hl ▸ hr sw hsw

theorem engineLaw_frameEvent {s t : State} (h : frameEvent s t) (hs : s.engineLaw = true) : t.engineLaw = true := by
  obtain h | ⟨r, r', u, he, hu, -, rfl⟩ := h
  · exact engineLaw_of_aside h hs
  · obtain ⟨⟨-, hhold, hrun⟩, -⟩ := workedBy_laws hu
    obtain ⟨hh, hr⟩ := sets_of_scanning s hs he
    exact engineLaw_of_scanning _ rfl (hhold ▸ hh) (hrun ▸ hr)

theorem slotLaw_frameEvent {s t : State} (h : frameEvent s t) (hs : s.slotLaw) : t.slotLaw := by
  obtain h | ⟨r, r', u, he, hu, hfrom, rfl⟩ := h
  · exact slotLaw_of_aside h hs
  · have hsweep : ∀ sw, r.sweep = some sw → sw.list.Nodup := by
      obtain ⟨-, -, -, -, -, hsweep⟩ := hs
      rwa [he] at hsweep
    obtain ⟨-, hpair⟩ := workedBy_laws hu
    exact slotLaw_of_scanning (s := u.setRun r') rfl (hpair (pairLaw_of_slotLaw hs) hsweep) (sweepFrom_nodup s hfrom hsweep)

/-! ## The requests, the withdrawal and the items -/

theorem engineLaw_holdEffect : (s.holdEffect p).engineLaw = true := by
  unfold State.holdEffect
  dsimp only
  split
  · exact engineLaw_of_halted _ ‹_›
  · exact engineLaw_of_halted _ rfl
  · exact engineLaw_of_halted _ rfl
  · exact engineLaw_of_halted _ (stopFrames_engine _ p _ _ _)

theorem engineLaw_releaseEffect (hs : s.engineLaw = true) (hh : s.hold.has p = true) :
    (s.releaseEffect p).engineLaw = true := by
  unfold State.releaseEffect
  dsimp only
  split
  · exact engineLaw_checkGoes (startCheck_checkGoes { s with hold := s.hold.erase p }) ‹_›
  · exact engineLaw_of_halted _ (halted_of_held s p hs hh)

theorem engineLaw_runEffect (hs : s.engineLaw = true) : (s.runEffect p).engineLaw = true := by
  have hrun := not_isEmpty_insert p s.run
  cases he : s.engine with
  | halted =>
    rw [runEffect_joins s p (by simp [he])]
    exact engineLaw_of_halted _ he
  | checking pass =>
    rw [runEffect_joins s p (by simp [he])]
    exact engineLaw_of_checking _ he (hold_of_checking s hs he)
  | idle =>
    rw [runEffect_idle s p he]
    exact engineLaw_of_scanning _ rfl (sets_of_idle s hs he).1 hrun
  | scanning r =>
    rw [runEffect_joins s p (by simp [he])]
    exact engineLaw_of_scanning _ he (sets_of_scanning s hs he).1 hrun

theorem engineLaw_stopEffect (hs : s.engineLaw = true) : (s.stopEffect p).engineLaw = true := by
  cases he : s.engine with
  | halted =>
    rw [stopEffect_leaves s p (.inl (by rw [he]; rfl))]
    exact engineLaw_of_halted _ he
  | checking pass =>
    rw [stopEffect_leaves s p (.inl (by rw [he]; rfl))]
    exact engineLaw_of_checking _ he (hold_of_checking s hs he)
  | idle =>
    rw [stopEffect_leaves s p (.inl (by rw [he]; rfl))]
    obtain ⟨hh, hr⟩ := sets_of_idle s hs he
    exact engineLaw_of_idle _ he hh (isEmpty_erase p hr)
  | scanning r =>
    obtain ⟨hh, -⟩ := sets_of_scanning s hs he
    cases hrun : (s.run.erase p).isEmpty with
    | true =>
      rw [stopEffect_stops s p r he hrun]
      exact engineLaw_stopFrames_idle _ p r _ hh hrun
    | false =>
      rw [stopEffect_leaves s p (.inr hrun)]
      exact engineLaw_of_scanning _ he hh hrun

/-- The withdrawal of a port, where it does anything, by the state of the engine (R38). -/
theorem withdraw_byEngine :
    s.withdraw p = s
    ∨ (let left : State := { s with hold := s.hold.erase p, run := s.run.erase p }
       (s.engine.isScanning = false ∨ left.run.isEmpty = false) ∧ s.withdraw p = left
       ∨ (left.hold.isEmpty = true ∧ s.engine = .halted ∧ s.withdraw p = left.startCheck)
       ∨ ∃ r, s.engine = .scanning r ∧ left.run.isEmpty = true ∧ s.withdraw p = left.stopFrames p r .stopped .idle) := by
  unfold State.withdraw
  split
  · right
    dsimp only
    split
    · rename_i he
      split
      · rename_i hh
        exact .inr (.inl ⟨(Bool.and_eq_true_iff.mp hh).2, he, rfl⟩)
      · exact .inl ⟨.inl (by rw [he]; rfl), rfl⟩
    · rename_i r he
      split
      · rename_i hr
        exact .inr (.inr ⟨r, he, hr, rfl⟩)
      · rename_i hr
        exact .inl ⟨.inr (Bool.eq_false_iff.mpr hr), rfl⟩
    · rename_i he
      exact .inl ⟨.inl (by rw [he]; rfl), rfl⟩
    · rename_i he
      exact .inl ⟨.inl (by rw [he]; rfl), rfl⟩
  · exact .inl rfl

theorem engineLaw_withdraw (hs : s.engineLaw = true) : (s.withdraw p).engineLaw = true := by
  obtain h | ⟨hrun, h⟩ | ⟨hh, -, h⟩ | ⟨r, he, hr, h⟩ := withdraw_byEngine s p <;> rw [h]
  · exact hs
  · cases he : s.engine with
    | halted => exact engineLaw_of_halted _ rfl
    | checking pass => exact engineLaw_of_checking _ rfl (isEmpty_erase p (hold_of_checking s hs he))
    | idle =>
      obtain ⟨hh, hr⟩ := sets_of_idle s hs he
      exact engineLaw_of_idle _ rfl (isEmpty_erase p hh) (isEmpty_erase p hr)
    | scanning r =>
      have hr : (s.run.erase p).isEmpty = false := hrun.resolve_left (by simp [he, Engine.isScanning])
      exact engineLaw_of_scanning _ rfl (isEmpty_erase p (sets_of_scanning s hs he).1) hr
  · exact engineLaw_checkGoes (startCheck_checkGoes _) hh
  · exact engineLaw_stopFrames_idle _ p r _ (isEmpty_erase p (sets_of_scanning s hs he).1) hr

/-- Outside SCANNING both slots are FREE and no sweep is in progress (R57). -/
theorem free_of_not_scanning {s : State} (h : s.slotLaw) (he : s.engine.isScanning = false) :
    s.slot0 = .free ∧ s.slot1 = .free ∧ 1 ≤ s.items.leaveCount := by
  obtain ⟨hfree, -, hcount, -⟩ := h
  exact ⟨(hfree he).1, (hfree he).2, hcount⟩

theorem slotLaw_holdEffect (h : s.slotLaw) : (s.holdEffect p).slotLaw := by
  have hcount : 1 ≤ s.items.leaveCount := (pairLaw_of_slotLaw h).2.1
  unfold State.holdEffect
  dsimp only
  split
  · exact h
  · rename_i he
    obtain ⟨h0, h1, -⟩ := free_of_not_scanning h (by rw [he]; rfl)
    exact slotLaw_of_free h0 h1 hcount rfl
  · rename_i he
    obtain ⟨h0, h1, -⟩ := free_of_not_scanning h (by rw [he]; rfl)
    exact slotLaw_of_free h0 h1 hcount rfl
  · exact slotLaw_stopFrames _ p _ _ rfl hcount

theorem slotLaw_releaseEffect (h : s.slotLaw) (he : s.engine = .halted) : (s.releaseEffect p).slotLaw := by
  obtain ⟨h0, h1, hcount⟩ := free_of_not_scanning h (by rw [he]; rfl)
  unfold State.releaseEffect
  dsimp only
  split
  · exact slotLaw_checkGoes (startCheck_checkGoes _) h0 h1 hcount
  · exact h

theorem slotLaw_runEffect (h : s.slotLaw) : (s.runEffect p).slotLaw := by
  by_cases he : s.engine = .idle
  · obtain ⟨h0, h1, hcount⟩ := free_of_not_scanning h (by rw [he]; rfl)
    rw [runEffect_idle s p he]
    exact slotLaw_of_free h0 h1 hcount rfl
  · rw [runEffect_joins s p he]
    exact h

theorem slotLaw_stopEffect (h : s.slotLaw) : (s.stopEffect p).slotLaw := by
  unfold State.stopEffect
  dsimp only
  split
  · split
    · exact slotLaw_stopFrames _ p _ _ rfl (pairLaw_of_slotLaw h).2.1
    · exact h
  all_goals exact h

theorem slotLaw_withdraw (h : s.slotLaw) : (s.withdraw p).slotLaw := by
  obtain hw | ⟨-, hw⟩ | ⟨-, he, hw⟩ | ⟨r, -, -, hw⟩ := withdraw_byEngine s p <;> rw [hw]
  · exact h
  · exact h
  · obtain ⟨h0, h1, hcount⟩ := free_of_not_scanning h (by rw [he]; rfl)
    exact slotLaw_checkGoes (startCheck_checkGoes _) h0 h1 hcount
  · exact slotLaw_stopFrames _ p r _ rfl (pairLaw_of_slotLaw h).2.1

/-- An accepted write leaves the engine and the slots, and of the items the leave count is as the item stored makes it. -/
theorem storeItem_frame (x : Item) (v : Nat) :
    (s.storeItem x v).engine = s.engine ∧ (s.storeItem x v).slot0 = s.slot0 ∧ (s.storeItem x v).slot1 = s.slot1
    ∧ (s.storeItem x v).items.leaveCount = (s.items.set x v).leaveCount := by
  have hfit (y : Items) : y.fitRing.leaveCount = y.leaveCount := by rw [fitRing_eq]
  unfold State.storeItem
  dsimp only
  split
  · simp [State.geometryFlush, State.forPorts, State.clampThresholds, hfit]
  · split <;> exact ⟨rfl, rfl, rfl, rfl⟩

/-- A stored leave count is at least 1 (R58). -/
theorem leaveCount_set {x : Item} {v w : Nat} (ha : x.accept v = some w) (h : 1 ≤ s.items.leaveCount) :
    1 ≤ (s.items.set x w).leaveCount := by
  by_cases hx : x = .leaveCount
  · subst hx
    have hadmits := Item.accept_admits .leaveCount v w ha
    simp only [Item.range, ItemRange.admits, Bool.and_eq_true, decide_eq_true_eq] at hadmits
    exact hadmits.1
  · have hsame : (s.items.set x w).leaveCount = s.items.leaveCount := by
      cases x with
      | leaveCount => exact absurd rfl hx
      | _ => rfl
    omega

theorem slotLaw_storeItem {x : Item} {v w : Nat} (h : s.slotLaw) (he : s.engine = .halted) (ha : x.accept v = some w) :
    (s.storeItem x w).slotLaw := by
  obtain ⟨h0, h1, hcount⟩ := free_of_not_scanning h (by rw [he]; rfl)
  obtain ⟨hengine, hs0, hs1, hleave⟩ := storeItem_frame s x w
  refine slotLaw_of_free (hs0.trans h0) (hs1.trans h1) (hleave ▸ leaveCount_set s ha hcount) ?_
  rw [hengine, he]
  rfl

/-! ## Every move, every command, every step -/

theorem engineLaw_move {s t : State} (h : EngineMove s t) (hs : s.engineLaw = true) : t.engineLaw = true := by
  cases h with
  | none => exact hs
  | hold p => exact engineLaw_holdEffect s p
  | release p hh => exact engineLaw_releaseEffect s p hs hh
  | run p => exact engineLaw_runEffect s p hs
  | stop p => exact engineLaw_stopEffect s p hs
  | withdraw p => exact engineLaw_withdraw s p hs
  | store x v w he _ => exact engineLaw_of_halted _ ((storeItem_frame s x w).1.trans he)
  | coilSensing level =>
    obtain h | ⟨pass, he, hgoes⟩ := coilSensingEnd_cases s level
    · rwa [h]
    · exact engineLaw_checkGoes hgoes (hold_of_checking s hs he)
  | frame h => exact engineLaw_frameEvent h hs

theorem slotLaw_move {s t : State} (h : EngineMove s t) (hs : s.engineLaw = true) (hl : s.slotLaw) : t.slotLaw := by
  cases h with
  | none => exact hl
  | hold p => exact slotLaw_holdEffect s p hl
  | release p hh => exact slotLaw_releaseEffect s p hl (halted_of_held s p hs hh)
  | run p => exact slotLaw_runEffect s p hl
  | stop p => exact slotLaw_stopEffect s p hl
  | withdraw p => exact slotLaw_withdraw s p hl
  | store x v w he ha => exact slotLaw_storeItem s hl he ha
  | coilSensing level =>
    obtain h | ⟨pass, he, hgoes⟩ := coilSensingEnd_cases s level
    · rwa [h]
    · obtain ⟨h0, h1, hcount⟩ := free_of_not_scanning hl (by rw [he]; rfl)
      exact slotLaw_checkGoes hgoes h0 h1 hcount
  | frame h => exact slotLaw_frameEvent h hl

/-- The tick leaves the engine in its state, with its sweep. -/
theorem tick_engine (e : Engine) : e.tick.isScanning = e.isScanning ∧ e.tick.sweep = e.sweep := by
  cases e <;> exact ⟨rfl, rfl⟩

theorem engineLaw_tick : s.tick.engineLaw = s.engineLaw := by
  unfold State.engineLaw State.tick
  cases s.engine <;> rfl

theorem slotLaw_tick (h : s.slotLaw) : s.tick.slotLaw := by
  obtain ⟨hscan, hsweep⟩ := tick_engine s.engine
  exact slotLaw_congr (t := s.tick) hscan hsweep rfl rfl rfl h

theorem exec_keepsEngineLaw (j : Instr) (h : exec j s = .next t) (hs : s.engineLaw = true) : t.engineLaw = true := by
  by_cases hreset : ∃ a b c d e, j = .fullReset a b c d e
  · obtain ⟨a, b, c, d, e, rfl⟩ := hreset
    cases h
    rfl
  · by_cases htick : j = .timestampCounterTick
    · subst htick
      cases h
      rwa [engineLaw_tick]
    · obtain ⟨u, v, hu, hm, hv⟩ := exec_moves s t j h (fun a b c d e he => hreset ⟨a, b, c, d, e, he⟩) htick
      exact engineLaw_of_aside hv (engineLaw_move hm (engineLaw_of_aside hu hs))

theorem exec_keepsSlotLaw (j : Instr) (h : exec j s = .next t) (hs : s.engineLaw = true) (hl : s.slotLaw) : t.slotLaw := by
  by_cases hreset : ∃ a b c d e, j = .fullReset a b c d e
  · obtain ⟨a, b, c, d, e, rfl⟩ := hreset
    cases h
    exact slotLaw_of_free rfl rfl (show 1 ≤ 3 by omega) rfl
  · by_cases htick : j = .timestampCounterTick
    · subst htick
      cases h
      exact slotLaw_tick s hl
    · obtain ⟨u, v, hu, hm, hv⟩ := exec_moves s t j h (fun a b c d e he => hreset ⟨a, b, c, d, e, he⟩) htick
      exact slotLaw_of_aside hv (slotLaw_move hm (engineLaw_of_aside hu hs) (slotLaw_of_aside hu hl))

/-- A step idles, or takes the command at the front of the queue (log 1). -/
theorem step_cases (h : step s = .next t) : t = s ∨ ∃ j rest, exec j { s with pending := rest } = .next t := by
  unfold step at h
  split at h
  · cases h
    exact .inl rfl
  · exact .inr ⟨_, _, h⟩

/-- Settles O58: every command is a move of the engine between changes beside it, and every move keeps both laws. -/
theorem engineAndSlotLawsKept : Obligations.EngineAndSlotLawsKept := by
  refine ⟨fun s t hs h => ?_, fun s t hs hl h => ?_⟩
  · obtain rfl | ⟨j, rest, h⟩ := step_cases s t h
    · exact hs
    · exact exec_keepsEngineLaw _ t j h hs
  · obtain rfl | ⟨j, rest, h⟩ := step_cases s t h
    · exact hl
    · exact exec_keepsSlotLaw _ t j h hs hl

end Sys2Proof.ScanEngine
end

section
/-!
PROOFS. Rounding half away from zero (R83): its magnitude and its sign, how near the quotient it is, and the bounds and exact
values that the vertex offset, the tilt and the tip correction draw from it (O49).
-/

namespace Sys2Proof.PositionSolver

open Sys2Proof.Machine

variable (n d : Int)

/-- The magnitude of a rounded quotient (R83). -/
def roundedMagnitude : Nat := (2 * n.natAbs + d.natAbs) / (2 * d.natAbs)

theorem roundHalfAway_eq : roundHalfAway n d = (n * d).sign * roundedMagnitude n d := by
  rw [Int.sign_mul]
  rfl

theorem roundedMagnitude_zero_left : roundedMagnitude 0 d = 0 := by
  unfold roundedMagnitude
  obtain hd | hd := Nat.eq_zero_or_pos d.natAbs
  · simp [hd]
  · exact Nat.div_eq_of_lt (by simp; omega)

theorem roundHalfAway_zero_left : roundHalfAway 0 d = 0 := by
  simp [roundHalfAway]

variable {n d}

/-- A rounded magnitude times the divisor lies in the half-open interval of one divisor's width around the dividend. -/
theorem roundedMagnitude_mul_bounds (hd : d ≠ 0) :
    2 * (roundedMagnitude n d * d.natAbs) ≤ 2 * n.natAbs + d.natAbs
    ∧ 2 * n.natAbs < 2 * (roundedMagnitude n d * d.natAbs) + d.natAbs := by
  have hpos : 0 < 2 * d.natAbs := by omega
  have hle := Nat.div_mul_le_self (2 * n.natAbs + d.natAbs) (2 * d.natAbs)
  have hlt := Nat.lt_div_mul_add hpos (a := 2 * n.natAbs + d.natAbs)
  change roundedMagnitude n d * _ ≤ _ at hle
  change _ < roundedMagnitude n d * _ + _ at hlt
  rw [Nat.mul_left_comm] at hle hlt
  omega

theorem natAbs_roundHalfAway (hd : d ≠ 0) : (roundHalfAway n d).natAbs = roundedMagnitude n d := by
  by_cases hn : n = 0
  · rw [hn, roundHalfAway_zero_left, roundedMagnitude_zero_left]
    rfl
  · rw [roundHalfAway_eq, Int.natAbs_mul, Int.natAbs_sign_of_ne_zero (mul_ne_zero hn hd), Int.natAbs_natCast, one_mul]

theorem sign_roundHalfAway (h : roundHalfAway n d ≠ 0) : (roundHalfAway n d).sign = (n * d).sign := by
  rw [roundHalfAway_eq] at h ⊢
  have hm : roundedMagnitude n d ≠ 0 := fun hm => h (by simp [hm])
  rw [Int.sign_mul, Int.sign_sign, Int.sign_natCast_of_ne_zero hm, mul_one]

theorem roundHalfAway_nonneg (h : 0 ≤ n * d) : 0 ≤ roundHalfAway n d := by
  rw [roundHalfAway_eq]
  exact mul_nonneg (Int.sign_nonneg_iff.mpr h) (Int.natCast_nonneg _)

theorem roundHalfAway_nonpos (h : n * d ≤ 0) : roundHalfAway n d ≤ 0 := by
  rw [roundHalfAway_eq]
  exact mul_nonpos_of_nonpos_of_nonneg (Int.sign_nonpos_iff.mpr h) (Int.natCast_nonneg _)

/-- The divisor takes the rounded quotient back to the side of the dividend. -/
theorem roundHalfAway_mul : roundHalfAway n d * d = n.sign * ((roundedMagnitude n d * d.natAbs : Nat) : Int) := by
  calc roundHalfAway n d * d = n.sign * (roundedMagnitude n d * (d.sign * d)) := by
        rw [roundHalfAway_eq, Int.sign_mul]
        ring
    _ = _ := by rw [Int.sign_mul_self_eq_natAbs, Nat.cast_mul]

/-- How far the rounded quotient is off is a matter of the magnitudes alone. -/
theorem roundHalfAway_distance (hn : n ≠ 0) :
    (roundHalfAway n d * d - n).natAbs = (((roundedMagnitude n d * d.natAbs : Nat) : Int) - n.natAbs).natAbs := by
  have hsplit : roundHalfAway n d * d - n
      = n.sign * (((roundedMagnitude n d * d.natAbs : Nat) : Int) - n.natAbs) := by
    rw [roundHalfAway_mul, mul_sub, Int.sign_mul_natAbs]
  rw [hsplit, Int.natAbs_mul, Int.natAbs_sign_of_ne_zero hn, one_mul]

theorem natAbs_roundHalfAway_mul (hd : d ≠ 0) : (roundHalfAway n d * d).natAbs = roundedMagnitude n d * d.natAbs := by
  rw [Int.natAbs_mul, natAbs_roundHalfAway hd]

/-- The rounded quotient is a nearest whole number (R83). -/
theorem roundHalfAway_nearest (hd : d ≠ 0) : 2 * (roundHalfAway n d * d - n).natAbs ≤ d.natAbs := by
  by_cases hn : n = 0
  · simp [hn, roundHalfAway_zero_left]
  · obtain ⟨hle, hlt⟩ := roundedMagnitude_mul_bounds (n := n) hd
    rw [roundHalfAway_distance hn]
    omega

/-- Halfway between two whole numbers the one farther from 0 is taken (R83). -/
theorem roundHalfAway_tie (hd : d ≠ 0) (h : 2 * (roundHalfAway n d * d - n).natAbs = d.natAbs) :
    n.natAbs < (roundHalfAway n d * d).natAbs := by
  by_cases hn : n = 0
  · simp only [hn, roundHalfAway_zero_left] at h
    omega
  · obtain ⟨-, hlt⟩ := roundedMagnitude_mul_bounds (n := n) hd
    rw [roundHalfAway_distance hn] at h
    rw [natAbs_roundHalfAway_mul hd]
    omega

/-- A quotient of magnitude at most the whole number `b` rounds to one of magnitude at most `b`. -/
theorem natAbs_roundHalfAway_le {b : Nat} (hd : d ≠ 0) (h : n.natAbs ≤ b * d.natAbs) : (roundHalfAway n d).natAbs ≤ b := by
  rw [natAbs_roundHalfAway hd]
  refine Nat.lt_succ_iff.mp ((Nat.div_lt_iff_lt_mul (by omega)).mpr ?_)
  rw [Nat.succ_mul b, Nat.mul_left_comm b]
  omega

/-- A whole quotient is not changed by rounding. -/
theorem roundHalfAway_mul_self (q : Int) (hd : d ≠ 0) : roundHalfAway (q * d) d = q := by
  have hnear := roundHalfAway_nearest (n := q * d) hd
  rw [← sub_mul, Int.natAbs_mul] at hnear
  have hzero : (roundHalfAway (q * d) d - q).natAbs = 0 := by
    by_contra hne
    have hone := Nat.mul_le_mul_right d.natAbs (Nat.one_le_iff_ne_zero.mpr hne)
    omega
  omega

/-- Settles O49: the four facts of R83, each a lemma above. -/
theorem roundsHalfAwayFromZero : Obligations.RoundsHalfAwayFromZero :=
  fun _ _ hd => ⟨natAbs_roundHalfAway hd, sign_roundHalfAway, roundHalfAway_nearest hd, roundHalfAway_tie hd⟩

end Sys2Proof.PositionSolver
end

section
/-!
PROOFS. The readings of a window (R15, R16, R77 to R79): what the substitution leaves of their number and their bounds, and the
peak as the lowest of the greatest.
-/

namespace Sys2Proof.PositionSolver

open Sys2Proof.Machine

/-! ## Substitution -/

theorem length_substitute (first : Nat) (listed : List Nat) (rs : List Reading) :
    (substitute first listed rs).length = rs.length := by
  simp [substitute]

/-- A coil takes its own reading or one of its neighbours', or the mean and the phase of both: every bound on a set of readings
holds of what a listed coil takes. -/
theorem substituteAt_bounded {rs : List Reading} {amax pmax : Nat} (h : ∀ r ∈ rs, r.amp ≤ amax ∧ r.phase ≤ pmax) (j : Nat)
    {own : Reading} (hown : own ∈ rs) : (substituteAt rs j own).amp ≤ amax ∧ (substituteAt rs j own).phase ≤ pmax := by
  have hbefore : ∀ a, (if j = 0 then none else rs[j - 1]?) = some a → a.amp ≤ amax ∧ a.phase ≤ pmax := by
    intro a ha
    split at ha
    · cases ha
    · exact h a (List.mem_of_getElem? ha)
  have hafter : ∀ b, rs[j + 1]? = some b → b.amp ≤ amax ∧ b.phase ≤ pmax := fun b hb => h b (List.mem_of_getElem? hb)
  unfold substituteAt
  split
  case h_1 a b ha hb =>
    obtain ⟨haa, hap⟩ := hbefore a ha
    obtain ⟨hba, hbp⟩ := hafter b hb
    refine ⟨by dsimp only; omega, ?_⟩
    dsimp only
    split
    · exact hbp
    · exact hap
  case h_2 a ha hb => exact hbefore a ha
  case h_3 b ha hb => exact hafter b hb
  case h_4 => exact h own hown

theorem substitute_bounded {first : Nat} {listed : List Nat} {rs : List Reading} {amax pmax : Nat}
    (h : ∀ r ∈ rs, r.amp ≤ amax ∧ r.phase ≤ pmax) : ∀ r ∈ substitute first listed rs, r.amp ≤ amax ∧ r.phase ≤ pmax := by
  intro r hr
  obtain ⟨⟨own, j⟩, hmem, rfl⟩ := List.mem_map.mp hr
  have hown : own ∈ rs := List.fst_mem_of_mem_zipIdx hmem
  dsimp only
  split
  · exact substituteAt_bounded h j hown
  · exact h own hown

/-! ## The peak -/

theorem peak_append_singleton (rs : List Reading) (r : Reading) :
    peak (rs ++ [r]) = if (peak rs).2 < r.amp then (rs.length, r.amp) else peak rs := by
  rw [peak, List.zipIdx_append, List.foldl_append, Nat.zero_add]
  rfl

/-- The peak of a set of readings is the lowest place of the greatest amplitude (R79). -/
theorem peak_isPeak (rs : List Reading) : isPeak rs (peak rs).1 (peak rs).2 := by
  induction rs using List.reverseRecOn with
  | nil => exact ⟨by simp, by simp, .inl ⟨rfl, rfl, rfl⟩⟩
  | append_singleton rs r ih =>
    obtain ⟨hall, hbelow, hat⟩ := ih
    rw [peak_append_singleton]
    by_cases hr : (peak rs).2 < r.amp
    · rw [if_pos hr]
      refine ⟨?_, fun i x hi hx => ?_, .inr ⟨r, by simp, rfl⟩⟩
      · simp only [List.mem_append, List.mem_singleton]
        rintro x (hx | rfl)
        · exact (hall x hx).trans hr.le
        · exact le_rfl
      · rw [List.getElem?_append_left hi] at hx
        exact (hall x (List.mem_of_getElem? hx)).trans_lt hr
    · rw [if_neg hr]
      have hplace : (peak rs).1 ≤ rs.length ∧ ∃ x, (rs ++ [r])[(peak rs).1]? = some x ∧ x.amp = (peak rs).2 := by
        obtain ⟨rfl, -, -⟩ | ⟨x, hx, hamp⟩ := hat
        · exact ⟨le_rfl, r, rfl, Nat.le_zero.mp (Nat.not_lt.mp hr)⟩
        · have hlt := (List.getElem?_eq_some_iff.mp hx).1
          exact ⟨hlt.le, x, by rwa [List.getElem?_append_left hlt], hamp⟩
      refine ⟨?_, fun i x hi hx => ?_, .inr hplace.2⟩
      · simp only [List.mem_append, List.mem_singleton]
        rintro x (hx | rfl)
        · exact hall x hx
        · exact Nat.not_lt.mp hr
      · rw [List.getElem?_append_left (hi.trans_le hplace.1)] at hx
        exact hbelow i x hi hx

/-- The reading at the peak. -/
theorem peak_reading {rs : List Reading} (h : rs ≠ []) : ∃ r, rs[(peak rs).1]? = some r ∧ r.amp = (peak rs).2 := by
  obtain ⟨-, -, ⟨hnil, -⟩ | hr⟩ := peak_isPeak rs
  · exact absurd hnil h
  · exact hr

theorem peak_lt_length {rs : List Reading} (h : rs ≠ []) : (peak rs).1 < rs.length := by
  obtain ⟨r, hr, -⟩ := peak_reading h
  exact (List.getElem?_eq_some_iff.mp hr).1

/-! ## The neighbours of a place -/

theorem ampAt_isNone (rs : List Reading) (j : Nat) : (ampAt rs j).isNone = true ↔ rs.length ≤ j := by
  simp [ampAt]

theorem ampAt_le_peak (rs : List Reading) (j : Nat) : (ampAt rs j).getD 0 ≤ (peak rs).2 := by
  unfold ampAt
  cases h : rs[j]? with
  | none => exact Nat.zero_le _
  | some r => exact (peak_isPeak rs).1 r (List.mem_of_getElem? h)

theorem neighbours_fst_isNone {rs : List Reading} {j : Nat} (h : j < rs.length) :
    (neighbours rs j).1.isNone = true ↔ j = 0 := by
  unfold neighbours
  by_cases hj : j = 0
  · simp [hj]
  · rw [if_neg hj, ampAt_isNone]
    omega

theorem neighbours_snd_isNone (rs : List Reading) (j : Nat) : (neighbours rs j).2.isNone = true ↔ rs.length ≤ j + 1 :=
  ampAt_isNone rs (j + 1)

/-- A neighbour outside the window has the amplitude of the other one (R80). -/
theorem mirrorNeighbours_neighbours {rs : List Reading} {j : Nat} (hj : j < rs.length) (htwo : 2 ≤ rs.length) :
    mirrorNeighbours (neighbours rs j)
      = ((ampAt rs (if j = 0 then 1 else j - 1)).getD 0, (ampAt rs (if rs.length ≤ j + 1 then j - 1 else j + 1)).getD 0) := by
  unfold mirrorNeighbours neighbours
  have hsome : ∀ i < rs.length, ∃ v, ampAt rs i = some v := fun i hi =>
    ⟨rs[i].amp, by simp [ampAt, hi]⟩
  by_cases hlow : j = 0
  · obtain ⟨v, hv⟩ := hsome 1 (by omega)
    simp [hlow, hv, show ¬ rs.length ≤ 1 by omega]
  · obtain ⟨v, hv⟩ := hsome (j - 1) (by omega)
    by_cases hhigh : rs.length ≤ j + 1
    · have hnone : ampAt rs (j + 1) = none := Option.isNone_iff_eq_none.mp ((ampAt_isNone rs _).mpr hhigh)
      simp [hlow, hhigh, hv, hnone]
    · obtain ⟨u, hu⟩ := hsome (j + 1) (by omega)
      simp [hlow, hhigh, hv, hu]

end Sys2Proof.PositionSolver
end

section
/-!
PROOFS. Stages 1 to 4 of the solver on one window (R77 to R84): the vertex offset, the peak coil and its neighbours, and the
coordinate within the centres of the axis (O50).
-/

namespace Sys2Proof.PositionSolver

open Sys2Proof.Machine

/-! ## The vertex offset (R82) -/

section Offset

variable {pitch a b c : Nat}

theorem vertexOffset_of_lt (h : a + c < 2 * b) :
    vertexOffset pitch a b c = roundHalfAway (((a : Int) - c) * pitch) (2 * ((a : Int) - 2 * b + c)) :=
  if_neg (by omega)

theorem vertexOffset_equal : vertexOffset pitch a b a = 0 := by
  simp only [vertexOffset, sub_self, zero_mul, roundHalfAway_zero_left, ite_self]

/-- Unless both neighbours equal the peak, the parabola opens downwards. -/
theorem flat_or_lt (ha : a ≤ b) (hc : c ≤ b) : a = c ∨ a + c < 2 * b := by omega

/-- The vertex lies within half a pitch of the peak coil's centre. -/
theorem vertexOffset_within (hp : pitch % 2 = 0) (ha : a ≤ b) (hc : c ≤ b) : 2 * (vertexOffset pitch a b c).natAbs ≤ pitch := by
  obtain rfl | h := flat_or_lt ha hc
  · simp [vertexOffset_equal]
  · obtain ⟨m, rfl⟩ := Nat.dvd_of_mod_eq_zero hp
    have hbound : (((a : Int) - c) * ((2 * m : Nat) : Int)).natAbs ≤ m * (2 * ((a : Int) - 2 * b + c)).natAbs :=
      calc (((a : Int) - c) * ((2 * m : Nat) : Int)).natAbs = m * (2 * ((a : Int) - c).natAbs) := by
            rw [Int.natAbs_mul, Int.natAbs_natCast]
            ring
        _ ≤ _ := Nat.mul_le_mul_left m (by omega)
    have hle := natAbs_roundHalfAway_le (by omega) hbound
    rw [← vertexOffset_of_lt h] at hle
    omega

theorem vertexOffset_nonneg (hb : c ≤ b) (h : a < c) : 0 ≤ vertexOffset pitch a b c := by
  rw [vertexOffset_of_lt (by omega)]
  refine roundHalfAway_nonneg (mul_nonneg_of_nonpos_of_nonpos ?_ (by omega))
  exact mul_nonpos_of_nonpos_of_nonneg (by omega) (Int.natCast_nonneg _)

theorem vertexOffset_nonpos (hb : a ≤ b) (h : c < a) : vertexOffset pitch a b c ≤ 0 := by
  rw [vertexOffset_of_lt (by omega)]
  refine roundHalfAway_nonpos (mul_nonpos_of_nonneg_of_nonpos ?_ (by omega))
  exact mul_nonneg (by omega) (Int.natCast_nonneg _)

/-- With the upper neighbour as great as the peak the vertex lies halfway between the two. -/
theorem vertexOffset_half (hp : pitch % 2 = 0) (h : a < b) : vertexOffset pitch a b b = (pitch / 2 : Nat) := by
  obtain ⟨m, rfl⟩ := Nat.dvd_of_mod_eq_zero hp
  have hquotient : ((a : Int) - b) * ((2 * m : Nat) : Int) = (m : Int) * (2 * ((a : Int) - 2 * b + b)) := by
    push_cast
    ring
  rw [vertexOffset_of_lt (by omega), hquotient, roundHalfAway_mul_self _ (by omega)]
  omega

end Offset

/-! ## One window -/

section Window

variable (pitch : Nat) {w : WindowIn}

/-- The place of the peak in the window. -/
def peakPlace (w : WindowIn) : Nat := (peak (substitute w.first w.listed w.readings)).1

/-- The amplitude at a place of the window after substitution, 0 outside the window. -/
def ampOrZero (w : WindowIn) (i : Nat) : Nat := (ampAt (substitute w.first w.listed w.readings) i).getD 0

/-- The place of the coil that stands before the peak, mirrored at the low end of the window (R80). -/
def placeBefore (w : WindowIn) : Nat := if peakPlace w = 0 then 1 else peakPlace w - 1

/-- The place of the coil that stands after the peak, mirrored at the high end of the window (R80). -/
def placeAfter (w : WindowIn) : Nat := if peakPlace w = 6 then 5 else peakPlace w + 1

theorem solveWindow_peakCoil : (solveWindow pitch w).peakCoil = w.first + peakPlace w := rfl

theorem solveWindow_isPeak :
    isPeak (substitute w.first w.listed w.readings) (peakPlace w) (solveWindow pitch w).amp := peak_isPeak _

theorem ampOrZero_le (i : Nat) : ampOrZero w i ≤ (solveWindow pitch w).amp := ampAt_le_peak _ i

theorem solveWindow_phase (h : w.readings ≠ []) :
    (substitute w.first w.listed w.readings)[peakPlace w]?.map Reading.phase = some (solveWindow pitch w).phase := by
  have hne : substitute w.first w.listed w.readings ≠ [] := by
    rwa [← List.length_pos_iff, length_substitute, List.length_pos_iff]
  obtain ⟨r, hr, -⟩ := peak_reading hne
  have hat : (substitute w.first w.listed w.readings)[peakPlace w]? = some r := hr
  unfold solveWindow
  simp only [hr, hat, Option.map_some, Option.getD_some]

/-- The bounds of the readings hold of the peak. -/
theorem solveWindow_bounded {amax pmax : Nat} (h : ∀ r ∈ w.readings, r.amp ≤ amax ∧ r.phase ≤ pmax) (hne : w.readings ≠ []) :
    (solveWindow pitch w).amp ≤ amax ∧ (solveWindow pitch w).phase ≤ pmax := by
  have hphase := solveWindow_phase pitch hne
  obtain ⟨r, hr, hp⟩ := Option.map_eq_some_iff.mp hphase
  obtain ⟨-, -, ⟨hnil, -⟩ | ⟨r', hr', hamp⟩⟩ := solveWindow_isPeak pitch (w := w)
  · rw [hnil] at hr
    cases hr
  · obtain rfl : r = r' := Option.some.inj (hr.symm.trans hr')
    have hbound := substitute_bounded h r (List.mem_of_getElem? hr)
    rwa [hp, hamp] at hbound

variable (hlen : w.readings.length = 7)

include hlen

theorem length_window : (substitute w.first w.listed w.readings).length = 7 := by rw [length_substitute, hlen]

theorem peakPlace_le : peakPlace w ≤ 6 := by
  have hlength := length_window hlen
  have hlt := peak_lt_length (List.ne_nil_of_length_eq_add_one hlength)
  rw [hlength] at hlt
  exact Nat.le_of_lt_succ hlt

/-- A neighbour is missing where the peak is at an end of the window. -/
theorem missingNeighbours :
    ((neighbours (substitute w.first w.listed w.readings) (peakPlace w)).1.isNone = true ↔ peakPlace w = 0)
    ∧ ((neighbours (substitute w.first w.listed w.readings) (peakPlace w)).2.isNone = true ↔ peakPlace w = 6) := by
  have hlength := length_window hlen
  have hle := peakPlace_le hlen
  refine ⟨neighbours_fst_isNone (by omega), ?_⟩
  rw [neighbours_snd_isNone]
  omega

theorem solveWindow_mirrored : (solveWindow pitch w).mirrored = true ↔ peakPlace w = 0 ∨ peakPlace w = 6 := by
  obtain ⟨hbefore, hafter⟩ := missingNeighbours hlen
  rw [← hbefore, ← hafter]
  exact Bool.or_eq_true_iff

theorem solveWindow_coord : (solveWindow pitch w).coord
    = (((solveWindow pitch w).peakCoil * pitch + pitch / 2 : Nat) : Int)
      + vertexOffset pitch (ampOrZero w (placeBefore w)) (solveWindow pitch w).amp (ampOrZero w (placeAfter w)) := by
  have hlength := length_window hlen
  have hle := peakPlace_le hlen
  have hnear := mirrorNeighbours_neighbours (rs := substitute w.first w.listed w.readings) (j := peakPlace w)
    (by omega) (by omega)
  have hhigh : (if 7 ≤ peakPlace w + 1 then peakPlace w - 1 else peakPlace w + 1) = placeAfter w := by
    unfold placeAfter
    split <;> split <;> omega
  rw [hlength, hhigh] at hnear
  change _ = (ampOrZero w (placeBefore w), ampOrZero w (placeAfter w)) at hnear
  change _ + vertexOffset pitch (mirrorNeighbours (neighbours _ (peakPlace w))).1 _
    (mirrorNeighbours (neighbours _ (peakPlace w))).2 = _
  rw [hnear]
  rfl

theorem solveWindow_defectNear : (solveWindow pitch w).defectNear = true
    ↔ (solveWindow pitch w).peakCoil ∈ w.listed
      ∨ (peakPlace w ≠ 0 ∧ (solveWindow pitch w).peakCoil - 1 ∈ w.listed)
      ∨ (peakPlace w ≠ 6 ∧ (solveWindow pitch w).peakCoil + 1 ∈ w.listed) := by
  obtain ⟨hbefore, hafter⟩ := missingNeighbours hlen
  have hdef : (solveWindow pitch w).defectNear
      = (w.listed.contains (solveWindow pitch w).peakCoil
        || ((neighbours (substitute w.first w.listed w.readings) (peakPlace w)).1.isSome
            && w.listed.contains ((solveWindow pitch w).peakCoil - 1))
        || ((neighbours (substitute w.first w.listed w.readings) (peakPlace w)).2.isSome
            && w.listed.contains ((solveWindow pitch w).peakCoil + 1))) := rfl
  rw [hdef, ne_eq, ne_eq, ← hbefore, ← hafter]
  simp only [Bool.or_eq_true, Bool.and_eq_true, List.contains_iff_mem, Bool.not_eq_true, Option.isNone_eq_false_iff, or_assoc]

/-- Both neighbours of a peak at an end of the window are one coil, and the coordinate is the peak coil's centre. -/
theorem solveWindow_coord_of_end (h : peakPlace w = 0 ∨ peakPlace w = 6) :
    (solveWindow pitch w).coord = (((solveWindow pitch w).peakCoil * pitch + pitch / 2 : Nat) : Int) := by
  have hplace : placeBefore w = placeAfter w := by
    unfold placeBefore placeAfter
    obtain h | h := h <;> simp [h]
  rw [solveWindow_coord pitch hlen, hplace, vertexOffset_equal, add_zero]

/-- The coordinate lies within the centres of the first and the last coil of the axis (R84). -/
theorem solveWindow_coord_bounds (hp : pitch % 2 = 0) (hfit : w.first + 7 ≤ w.coils) :
    ((pitch / 2 : Nat) : Int) ≤ (solveWindow pitch w).coord
    ∧ (solveWindow pitch w).coord ≤ ((w.coils * pitch - pitch / 2 : Nat) : Int) := by
  have hle := peakPlace_le hlen
  have hcoil := solveWindow_peakCoil pitch (w := w)
  by_cases hend : peakPlace w = 0 ∨ peakPlace w = 6
  · have hlast : ((solveWindow pitch w).peakCoil + 1) * pitch ≤ w.coils * pitch := Nat.mul_le_mul_right _ (by omega)
    rw [solveWindow_coord_of_end pitch hlen hend]
    rw [Nat.succ_mul] at hlast
    omega
  · have hfirst : 1 * pitch ≤ (solveWindow pitch w).peakCoil * pitch := Nat.mul_le_mul_right _ (by omega)
    have hlast : ((solveWindow pitch w).peakCoil + 2) * pitch ≤ w.coils * pitch := Nat.mul_le_mul_right _ (by omega)
    have hoff := vertexOffset_within hp (ampOrZero_le pitch (w := w) (placeBefore w)) (ampOrZero_le pitch (placeAfter w))
    rw [solveWindow_coord pitch hlen]
    rw [Nat.add_mul] at hlast
    omega

end Window

/-- Settles O50: the vertex offset case by case, and the window's peak, coordinate, mirroring and DEFECT. -/
theorem interpolationStaysNearPeak : Obligations.InterpolationStaysNearPeak := by
  refine ⟨fun pitch a b c hp ha hc => ?_, ?_⟩
  · refine ⟨vertexOffset_within hp ha hc, vertexOffset_nonneg hc, vertexOffset_nonpos ha, ?_, ?_, fun h => ?_⟩
    · rintro rfl
      exact vertexOffset_equal
    · rintro h rfl
      exact vertexOffset_half hp h
    · exact vertexOffset_of_lt (by omega)
  · intro pitch w hp hlen hfit o rs j amp before after
    have hj : j = peakPlace w := Nat.add_sub_cancel_left _ _
    have hamp : ∀ i, amp i = ampOrZero w i := by
      intro i
      change amp i = (rs[i]?.map Reading.amp).getD 0
      dsimp only [amp]
      cases rs[i]? <;> rfl
    have hbefore : before = ampOrZero w (placeBefore w) := by
      dsimp only [before]
      rw [hamp, hamp, hj, ← apply_ite (ampOrZero w)]
      rfl
    have hafter : after = ampOrZero w (placeAfter w) := by
      dsimp only [after]
      rw [hamp, hamp, hj, ← apply_ite (ampOrZero w)]
      rfl
    have hle := peakPlace_le hlen
    rw [hj, hbefore, hafter]
    exact ⟨Nat.le_add_right _ _, Nat.add_le_add_left hle _, solveWindow_isPeak pitch,
      solveWindow_phase pitch (List.ne_nil_of_length_eq_add_one hlen), solveWindow_coord pitch hlen,
      solveWindow_mirrored pitch hlen, solveWindow_defectNear pitch hlen, solveWindow_coord_bounds pitch hlen hp hfit⟩

end Sys2Proof.PositionSolver
end

section
/-!
PROOFS. Stage 5 of the solver: the travel from the phase (R86, R87) and the pressure along the segment of the curve that holds it
(R88, R89) (O51).
-/

namespace Sys2Proof.PositionSolver

open Sys2Proof.Machine

/-! ## The travel (R86, R87) -/

section Travel

variable {k : Kind} {p : Nat}

/-- A phase below the phase zero gives a negative travel, as one step of phase is at least a 4096th of the span. -/
theorem rawTravel_neg (h : p < k.phaseZero) (hs : 0 < k.phaseSpan) (hs' : k.phaseSpan ≤ 4095) : rawTravel p k < 0 := by
  have hsplit : rawTravel p k = -(((k.phaseZero - p) * 4096 / k.phaseSpan : Nat) : Int) := by
    have hdividend : ((p : Int) - k.phaseZero) * 4096 = -(((k.phaseZero - p) * 4096 : Nat) : Int) := by omega
    rw [rawTravel, hdividend, Int.neg_tdiv, Int.ofNat_tdiv]
  have hone : 1 ≤ (k.phaseZero - p) * 4096 / k.phaseSpan := (Nat.one_le_div_iff hs).mpr (by omega)
  omega

/-- From the phase zero on, the travel is the floor of the quotient. -/
theorem rawTravel_of_le (h : k.phaseZero ≤ p) : rawTravel p k = (((p - k.phaseZero) * 4096 / k.phaseSpan : Nat) : Int) := by
  have hdividend : ((p : Int) - k.phaseZero) * 4096 = (((p - k.phaseZero) * 4096 : Nat) : Int) := by omega
  rw [rawTravel, hdividend, Int.ofNat_tdiv]

/-- Inside the span the travel is at most 4095. -/
theorem travel_le_of_lt (h : k.phaseZero ≤ p) (h' : p < k.phaseZero + k.phaseSpan) :
    (p - k.phaseZero) * 4096 / k.phaseSpan ≤ 4095 :=
  Nat.le_of_lt_succ (Nat.div_lt_of_lt_mul (Nat.mul_lt_mul_of_pos_right (by omega) (by omega)))

/-- From phase zero plus span on, the travel is beyond 4095. -/
theorem le_rawTravel (hs : 0 < k.phaseSpan) (h : k.phaseZero + k.phaseSpan ≤ p) : 4096 ≤ rawTravel p k := by
  have hquotient : 4096 ≤ (p - k.phaseZero) * 4096 / k.phaseSpan :=
    (Nat.le_div_iff_mul_le hs).mpr (by rw [Nat.mul_comm]; exact Nat.mul_le_mul_right _ (by omega))
  rw [rawTravel_of_le (by omega)]
  omega

end Travel

/-- The travel of a sample: the raw travel held in 0..4095. -/
def heldTravel (raw : Int) : Nat := (clampInt 0 4095 raw).toNat

theorem heldTravel_of_neg {raw : Int} (h : raw < 0) : heldTravel raw = 0 := by
  unfold heldTravel clampInt
  omega

theorem heldTravel_of_le {n : Nat} (h : n ≤ 4095) : heldTravel n = n := by
  unfold heldTravel clampInt
  omega

theorem heldTravel_of_beyond {raw : Int} (h : 4095 ≤ raw) : heldTravel raw = 4095 := by
  unfold heldTravel clampInt
  omega

theorem heldTravel_le (raw : Int) : heldTravel raw ≤ 4095 := by
  unfold heldTravel clampInt
  omega

/-! ## The segment of a travel (R88) -/

/-- The knots `a` and `b` at `j` and after it hold the travel `r`, and none before them does. -/
def segmentAt (knots : List Knot) (r j : Nat) (a b : Knot) : Prop :=
  knots[j]? = some a ∧ knots[j + 1]? = some b ∧ a.input ≤ r ∧ r ≤ b.input ∧ (j ≠ 0 → a.input < r)

/-- A curve that begins at or below a travel and ends at or above it, and not where it begins, has a segment for the travel: the
first one that ends at or above it. -/
theorem findSegment_exists {r : Nat} {last : Knot} (hr : r ≤ last.input) (first : Knot) (rest : List Knot)
    (hfirst : first.input ≤ r) (hne : first.input < last.input) (hlast : (first :: rest).getLast? = some last) :
    ∃ j a b, segmentAt (first :: rest) r j a b ∧ findSegment r (first :: rest) = some (a, b) := by
  induction rest generalizing first with
  | nil =>
    obtain rfl : first = last := Option.some.inj hlast
    exact absurd hne (lt_irrefl _)
  | cons next rest ih =>
    by_cases hnext : r ≤ next.input
    · exact ⟨0, first, next, ⟨rfl, rfl, hfirst, hnext, fun h => absurd rfl h⟩, if_pos ⟨hfirst, hnext⟩⟩
    · have hbelow : next.input < r := Nat.not_le.mp hnext
      rw [List.getLast?_cons_cons] at hlast
      obtain ⟨j, a, b, ⟨ha, hb, hle, hle', hlow⟩, hfind⟩ := ih next hbelow.le (hbelow.trans_le hr) hlast
      refine ⟨j + 1, a, b, ⟨ha, hb, hle, hle', fun _ => ?_⟩, (if_neg fun h => hnext h.2).trans hfind⟩
      cases j with
      | zero =>
        obtain rfl : next = a := Option.some.inj ha
        exact hbelow
      | succ j => exact hlow (Nat.succ_ne_zero j)

/-- Two knots in succession are in the order that the curve's knots have. -/
theorem pairwise_successive {knots : List Knot} {f : Knot → Nat} {rel : Nat → Nat → Prop} (h : (knots.map f).Pairwise rel)
    {j : Nat} {a b : Knot} (ha : knots[j]? = some a) (hb : knots[j + 1]? = some b) : rel (f a) (f b) := by
  obtain ⟨hj, rfl⟩ := List.getElem?_eq_some_iff.mp ha
  obtain ⟨hj', rfl⟩ := List.getElem?_eq_some_iff.mp hb
  exact List.pairwise_iff_getElem.mp (List.pairwise_map.mp h) j (j + 1) hj hj' (Nat.lt_succ_self j)

/-! ## The pressure along a segment (R89) -/

section Segment

variable {a b : Knot} {r : Nat}

theorem interpolate_start : interpolate a b a.input = a.output := by
  have hhalf : (b.input - a.input) / 2 / (b.input - a.input) = 0 := by
    obtain h | h := Nat.eq_zero_or_pos (b.input - a.input)
    · simp [h]
    · exact Nat.div_eq_of_lt (by omega)
  rw [interpolate, Nat.sub_self, Nat.zero_mul, Nat.zero_add, hhalf, Nat.add_zero]

theorem le_interpolate : a.output ≤ interpolate a b r := Nat.le_add_right _ _

theorem interpolate_end (hi : a.input < b.input) (ho : a.output ≤ b.output) : interpolate a b b.input = b.output := by
  have hpos : 0 < b.input - a.input := by omega
  rw [interpolate, Nat.mul_add_div hpos, Nat.div_eq_of_lt (Nat.div_lt_self hpos Nat.one_lt_two)]
  omega

theorem interpolate_le (hi : a.input < b.input) (ho : a.output ≤ b.output) (hr : r ≤ b.input) :
    interpolate a b r ≤ b.output := by
  rw [← interpolate_end hi ho]
  have hrise : (r - a.input) * (b.output - a.output) ≤ (b.input - a.input) * (b.output - a.output) :=
    Nat.mul_le_mul_right _ (by omega)
  exact Nat.add_le_add_left (Nat.div_le_div_right (Nat.add_le_add_right hrise _)) _

end Segment

/-! ## The pressure on a valid curve -/

section Valid

variable {knots : List Knot} (hfirst : knots.head?.map Knot.input = some 0) (hlast : knots.getLast?.map Knot.input = some 4095)

include hfirst hlast

/-- A curve from input 0 to input 4095 has a segment for every travel, and the pressure is interpolated along it. -/
theorem pressureOf_segment {r : Nat} (hr : r ≤ 4095) :
    ∃ j a b, segmentAt knots r j a b ∧ pressureOf knots r = interpolate a b r := by
  obtain ⟨first, hf, hzero⟩ := Option.map_eq_some_iff.mp hfirst
  obtain ⟨last, hl, hend⟩ := Option.map_eq_some_iff.mp hlast
  obtain ⟨rest, rfl⟩ := List.head?_eq_some_iff.mp hf
  obtain ⟨j, a, b, hseg, hfind⟩ := findSegment_exists (r := r) (by omega) first rest (by omega) (by omega) hl
  refine ⟨j, a, b, hseg, ?_⟩
  rw [pressureOf, hfind]

/-- No pressure is above the greatest output of a valid curve. -/
theorem pressureOf_le {r bound : Nat} (hr : r ≤ 4095) (hi : (knots.map Knot.input).Pairwise (· < ·))
    (ho : (knots.map Knot.output).Pairwise (· ≤ ·)) (hbound : ∀ x ∈ knots, x.output ≤ bound) : pressureOf knots r ≤ bound := by
  obtain ⟨j, a, b, ⟨ha, hb, -, hle, -⟩, hp⟩ := pressureOf_segment hfirst hlast hr
  calc pressureOf knots r = interpolate a b r := hp
    _ ≤ b.output := interpolate_le (pairwise_successive hi ha hb) (pairwise_successive ho ha hb) hle
    _ ≤ bound := hbound b (List.mem_of_getElem? hb)

end Valid

/-! ## The sample's travel and pressure -/

section Sample

variable (items : Items) (knots : List Knot) (k : Kind) (wex wey wcx wcy : WindowIn)

theorem solve_travel : (solve items knots k wex wey wcx wcy).vals.travel
    = heldTravel (rawTravel (solveWindow items.pitch wex).phase k) := rfl

theorem solve_pressure : (solve items knots k wex wey wcx wcy).vals.pressure
    = pressureOf knots (solve items knots k wex wey wcx wcy).vals.travel := rfl

/-- CLAMPED_PRESSURE says that the raw travel lies outside 0..4095 (R87). -/
theorem solve_clampedPressure : (solve items knots k wex wey wcx wcy).vals.flags.clampedPressure
    = decide (rawTravel (solveWindow items.pitch wex).phase k < 0 ∨ 4095 < rawTravel (solveWindow items.pitch wex).phase k) :=
  (Bool.decide_or _ _).symm

end Sample

/-- Settles O51: the raw travel below, inside and beyond the span, and the segment that holds the travel kept. -/
theorem pressureFromPhase : Obligations.PressureFromPhase := by
  intro items knots k wex wey wcx wcy hspan hspan' v p
  have htravel : v.travel = heldTravel (rawTravel p k) := solve_travel items knots k wex wey wcx wcy
  have hclamped : v.flags.clampedPressure = decide (rawTravel p k < 0 ∨ 4095 < rawTravel p k) :=
    solve_clampedPressure items knots k wex wey wcx wcy
  have hpressure : v.pressure = pressureOf knots v.travel := solve_pressure items knots k wex wey wcx wcy
  refine ⟨fun h => ?below, fun h h' => ?inside, fun h => ?beyond, fun hfirst hlast hi ho => ?pressure⟩
  case below =>
    have hneg := rawTravel_neg h (by omega) hspan'
    exact ⟨htravel.trans (heldTravel_of_neg hneg), hclamped.trans (decide_eq_true (.inl hneg))⟩
  case inside =>
    have hle := travel_le_of_lt h h'
    rw [rawTravel_of_le h] at htravel hclamped
    rw [heldTravel_of_le hle] at htravel
    exact ⟨htravel, htravel.trans_le hle, hclamped.trans (decide_eq_false (by omega))⟩
  case beyond =>
    have hbeyond := le_rawTravel (by omega) h
    exact ⟨htravel.trans (heldTravel_of_beyond (by omega)), hclamped.trans (decide_eq_true (.inr (by omega)))⟩
  case pressure =>
    have hheld : v.travel ≤ 4095 := htravel.trans_le (heldTravel_le _)
    obtain ⟨j, a, b, ⟨ha, hb, hle, hle', hlow⟩, hseg⟩ := pressureOf_segment hfirst hlast hheld
    rw [← hpressure] at hseg
    have hin := pairwise_successive hi ha hb
    have hout := pairwise_successive ho ha hb
    refine ⟨j, a, b, ha, hb, hle, hle', hlow, hseg, ?_, ?_, fun h => ?_, fun h => ?_⟩
    · exact le_interpolate.trans_eq hseg.symm
    · exact hseg.trans_le (interpolate_le hin hout hle')
    · rw [hseg, h, interpolate_start]
    · rw [hseg, h, interpolate_end hin hout]

end Sys2Proof.PositionSolver
end

section
/-!
PROOFS. Stage 6 of the solver: the integer square root, the tilt as the collar offset in thousandths of the reach, and the tip
correction (R90 to R95) (O52).
-/

namespace Sys2Proof.PositionSolver

open Sys2Proof.Machine

/-! ## The integer square root (R93) -/

/-- `h` is the integer square root of `v`. -/
def isSqrt (v h : Nat) : Prop := h * h ≤ v ∧ v < (h + 1) * (h + 1)

/-- Each bit halves the interval in which the root lies. -/
theorem isqrtBits_isSqrt {v n h : Nat} (hle : h * h ≤ v) (hlt : v < (h + 2 ^ n) * (h + 2 ^ n)) : isSqrt v (isqrtBits v n h) := by
  induction n generalizing h with
  | zero => exact ⟨hle, hlt⟩
  | succ n ih =>
    unfold isqrtBits
    split
    case isTrue hkeep =>
      refine ih hkeep ?_
      rwa [Nat.add_assoc, ← Nat.two_mul, ← Nat.pow_succ']
    case isFalse hdrop => exact ih hle (Nat.not_le.mp hdrop)

theorem isqrt_isSqrt (v : Nat) : isSqrt v (isqrt v) := by
  refine isqrtBits_isSqrt (Nat.zero_le v) ?_
  calc v < 2 ^ (v.log2 + 1) := Nat.lt_log2_self
    _ ≤ 2 ^ ((v.log2 / 2 + 1) + (v.log2 / 2 + 1)) := Nat.pow_le_pow_right Nat.two_pos (by omega)
    _ = _ := by rw [Nat.zero_add, Nat.pow_add]

/-- A number whose square is at most `v` is at most the root of `v`. -/
theorem le_of_isSqrt {v h x : Nat} (hroot : isSqrt v h) (hx : x * x ≤ v) : x ≤ h := by
  by_contra hlt
  have hsq := Nat.mul_self_le_mul_self (Nat.succ_le_of_lt (Nat.not_le.mp hlt))
  exact absurd (hsq.trans hx) (Nat.not_le.mpr hroot.2)

/-! ## The reach (R92, R93) -/

/-- The square of the distance from the end to the collar. -/
def squareDistance (dx dy : Int) : Nat := dx.natAbs * dx.natAbs + dy.natAbs * dy.natAbs

theorem squareDistance_eq (dx dy : Int) : ((squareDistance dx dy : Nat) : Int) = dx * dx + dy * dy := by
  unfold squareDistance
  rw [Nat.cast_add, Int.natAbs_mul_self, Int.natAbs_mul_self]

/-- The length that a tilt of 1000 stands for: the collar spacing, or the measured distance where that is greater. -/
def reach (k : Kind) (square : Nat) : Nat := if k.spacing * k.spacing < square then isqrt square else k.spacing

variable {k : Kind}

theorem reach_near {square : Nat} (h : square ≤ k.spacing * k.spacing) : reach k square = k.spacing :=
  if_neg (Nat.not_lt.mpr h)

theorem reach_beyond {square : Nat} (h : k.spacing * k.spacing < square) :
    k.spacing ≤ reach k square ∧ isSqrt square (reach k square) := by
  have hroot := isqrt_isSqrt square
  rw [reach, if_pos h]
  exact ⟨le_of_isSqrt hroot h.le, hroot⟩

theorem spacing_le_reach (square : Nat) : k.spacing ≤ reach k square := by
  by_cases h : k.spacing * k.spacing < square
  · exact (reach_beyond h).1
  · exact (reach_near (Nat.not_lt.mp h)).ge

/-- A component of the distance is at most the reach. -/
theorem le_reach {square x : Nat} (hx : x * x ≤ square) : x ≤ reach k square := by
  by_cases h : k.spacing * k.spacing < square
  · exact le_of_isSqrt (reach_beyond h).2 hx
  · rw [reach_near (Nat.not_lt.mp h)]
    exact Nat.mul_self_le_mul_self_iff.mp (hx.trans (Nat.not_lt.mp h))

/-! ## The tilt -/

variable {strength : Nat} {dx dy : Int}

theorem tilt_absent (h : strength < k.collarMin) :
    tilt k strength dx dy = { x := 0, y := 0, dx := 0, dy := 0, saturated := false, absent := true } := if_pos h

theorem tilt_present (h : k.collarMin ≤ strength) : tilt k strength dx dy
    = { x := tiltOf dx (reach k (squareDistance dx dy)), y := tiltOf dy (reach k (squareDistance dx dy))
        dx := clampInt (-32767) 32767 dx, dy := clampInt (-32767) 32767 dy
        saturated := decide (k.spacing * k.spacing < squareDistance dx dy), absent := false } := by
  rw [tilt, if_neg (Nat.not_lt.mpr h), ← squareDistance_eq]
  simp only [Int.toNat_natCast, decide_eq_true_eq]
  rfl

theorem clampInt_bounds {a b v : Int} (h : a ≤ b) : a ≤ clampInt a b v ∧ clampInt a b v ≤ b := by
  unfold clampInt
  omega

theorem tiltOf_bounds (d : Int) (reach : Nat) : -1000 ≤ tiltOf d reach ∧ tiltOf d reach ≤ 1000 := clampInt_bounds (by decide)

/-- A component that is at most the reach is not touched by the clamp of the tilt. -/
theorem tiltOf_of_le {d : Int} {reach : Nat} (hr : 0 < reach) (hd : d.natAbs ≤ reach) :
    tiltOf d reach = roundHalfAway (d * 1000) reach := by
  have hbound : (d * 1000).natAbs ≤ 1000 * (reach : Int).natAbs := by omega
  have hle := natAbs_roundHalfAway_le (by omega) hbound
  unfold tiltOf clampInt
  omega

/-- The tilt of an absent collar is 0 and that of a present one is clamped: it is always in its range (R76, R94). -/
theorem tilt_bounds (k : Kind) (strength : Nat) (dx dy : Int) :
    (-1000 ≤ (tilt k strength dx dy).x ∧ (tilt k strength dx dy).x ≤ 1000)
    ∧ (-1000 ≤ (tilt k strength dx dy).y ∧ (tilt k strength dx dy).y ≤ 1000) := by
  obtain h | h := Nat.lt_or_ge strength k.collarMin
  · simp [tilt_absent h]
  · rw [tilt_present h]
    exact ⟨tiltOf_bounds _ _, tiltOf_bounds _ _⟩

/-- The collar offsets of a tilt fit in 16 bits (R76, R91). -/
theorem tilt_offset_bounds (k : Kind) (strength : Nat) (dx dy : Int) :
    (-32767 ≤ (tilt k strength dx dy).dx ∧ (tilt k strength dx dy).dx ≤ 32767)
    ∧ (-32767 ≤ (tilt k strength dx dy).dy ∧ (tilt k strength dx dy).dy ≤ 32767) := by
  obtain h | h := Nat.lt_or_ge strength k.collarMin
  · simp [tilt_absent h]
  · rw [tilt_present h]
    exact ⟨clampInt_bounds (by decide), clampInt_bounds (by decide)⟩

/-- TILT_ABSENT and TILT_SAT exclude each other (R94). -/
theorem tilt_absent_not_saturated (k : Kind) (strength : Nat) (dx dy : Int) :
    ¬ ((tilt k strength dx dy).absent = true ∧ (tilt k strength dx dy).saturated = true) := by
  obtain h | h := Nat.lt_or_ge strength k.collarMin
  · simp [tilt_absent h]
  · simp [tilt_present h]

/-- Half a collar spacing of 3000 is the most that a tip can be corrected by (R95). -/
theorem natAbs_tipCorrection_le {t : Int} (ht : -1000 ≤ t ∧ t ≤ 1000) (hs : k.spacing ≤ 3000) (hc : k.tipCorr ≤ 128) :
    (tipCorrection t k).natAbs ≤ 1500 := by
  refine natAbs_roundHalfAway_le (by decide) ?_
  rw [Int.natAbs_mul, Int.natAbs_mul, Int.natAbs_natCast, Int.natAbs_natCast]
  calc t.natAbs * k.spacing * k.tipCorr ≤ 1000 * 3000 * 128 :=
        Nat.mul_le_mul (Nat.mul_le_mul (by omega) hs) hc
    _ = 1500 * (256000 : Int).natAbs := rfl

/-- Settles O52: the tilt of an absent and of a present collar, with the reach as the witness for the measured distance. -/
theorem tiltWithinReach : Obligations.TiltWithinReach := by
  intro k strength dx dy hspacing hspacing' hcorr t square
  obtain ⟨hx, hy⟩ := tilt_bounds k strength dx dy
  refine ⟨tilt_absent, fun h => ?_, hx.1, hx.2, hy.1, hy.2, natAbs_tipCorrection_le hx hspacing' hcorr,
    natAbs_tipCorrection_le hy hspacing' hcorr⟩
  have hreach := spacing_le_reach (k := k) (squareDistance dx dy)
  have hsquare : square = ((squareDistance dx dy : Nat) : Int) := (squareDistance_eq dx dy).symm
  have hbeyond : (k.spacing : Int) * k.spacing < square ↔ k.spacing * k.spacing < squareDistance dx dy := by
    rw [hsquare]
    exact_mod_cast Iff.rfl
  have ht : t = _ := tilt_present h
  rw [ht, ← not_lt, hbeyond]
  refine ⟨rfl, rfl, rfl, decide_eq_true_iff, reach k (squareDistance dx dy), fun hnear => ?_, fun hfar => ?_, ?_, ?_⟩
  · exact reach_near (Nat.not_lt.mp hnear)
  · obtain ⟨hle, hroot, hroot'⟩ := reach_beyond hfar
    rw [hsquare]
    exact ⟨hle, by exact_mod_cast hroot, by exact_mod_cast hroot'⟩
  · exact tiltOf_of_le (by omega) (le_reach (Nat.le_add_right _ _))
  · exact tiltOf_of_le (by omega) (le_reach (Nat.le_add_left _ _))

end Sys2Proof.PositionSolver
end

section
/-!
PROOFS. The tool sample (R76): the position less the tip correction and clamped to the array, the flags, and every value in its
range (R95 to R97) (O53).
-/

namespace Sys2Proof.PositionSolver

open Sys2Proof.Machine

/-! ## The position (R95, R96) -/

/-- A coordinate of the tip less the tip correction of a tilt component, which an absent collar does not give (R95). -/
def correctedCoord (k : Kind) (lean : Tilt) (coord component : Int) : Int :=
  coord - if lean.absent then 0 else tipCorrection component k

theorem correctedCoord_eq (k : Kind) (lean : Tilt) (coord component : Int) : correctedCoord k lean coord component
    = if lean.absent then coord else coord - roundHalfAway (component * k.spacing * k.tipCorr) 256000 := by
  unfold correctedCoord tipCorrection
  split
  · exact sub_zero coord
  · rfl

/-- A coordinate held inside an axis of `extent` micrometres (R96). -/
def heldCoord (extent : Nat) (c : Int) : Int := clampInt 0 ((extent : Int) - 1) c

theorem toNat_heldCoord (extent : Nat) (c : Int) : ((heldCoord extent c).toNat : Int) = heldCoord extent c :=
  Int.toNat_of_nonneg (le_max_left _ _)

theorem heldCoord_lt {extent : Nat} (h : 0 < extent) (c : Int) : heldCoord extent c < extent := by
  unfold heldCoord clampInt
  omega

/-! ## EDGE and FAST (R81) -/

/-- The peak is at an end of its axis. -/
def peakOnEdge (o : WindowOut) (coils : Nat) : Prop := o.peakCoil = 0 ∨ o.peakCoil + 1 = coils

theorem atEdge_iff (o : WindowOut) (coils : Nat) : o.atEdge coils = true ↔ peakOnEdge o coils := by
  simp [WindowOut.atEdge, peakOnEdge]

theorem atEdge_not_iff (o : WindowOut) (coils : Nat) : (!o.atEdge coils) = true ↔ ¬ peakOnEdge o coils := by
  rw [← atEdge_iff, Bool.not_eq_true', Bool.not_eq_true]

/-- A neighbour was mirrored because the array ends there. -/
theorem mirroredAtEdge_iff (o : WindowOut) (coils : Nat) :
    (o.mirrored && o.atEdge coils) = true ↔ o.mirrored = true ∧ peakOnEdge o coils := by
  rw [Bool.and_eq_true, atEdge_iff]

/-- A neighbour was mirrored because the tool left its window. -/
theorem mirroredInside_iff (o : WindowOut) (coils : Nat) :
    (o.mirrored && !(o.mirrored && o.atEdge coils)) = true ↔ o.mirrored = true ∧ ¬ peakOnEdge o coils := by
  rw [Bool.not_and, Bool.and_or_distrib_left, Bool.and_not_self, Bool.false_or, Bool.and_eq_true, atEdge_not_iff]

/-! ## The sample -/

variable (items : Items) (knots : List Knot) (k : Kind) (wex wey wcx wcy : WindowIn)

/-- The tilt of a sample: of the collar coordinates less those of the end (R90, R91). -/
def sampleLean : Tilt :=
  tilt k (min (solveWindow items.pitch wcx).amp (solveWindow items.pitch wcy).amp)
    ((solveWindow items.pitch wcx).coord - (solveWindow items.pitch wex).coord)
    ((solveWindow items.pitch wcy).coord - (solveWindow items.pitch wey).coord)

/-- The corrected X coordinate of a sample, before the clamp. -/
def sampleX : Int :=
  correctedCoord k (sampleLean items k wex wey wcx wcy) (solveWindow items.pitch wex).coord (sampleLean items k wex wey wcx wcy).x

/-- The corrected Y coordinate of a sample, before the clamp. -/
def sampleY : Int :=
  correctedCoord k (sampleLean items k wex wey wcx wcy) (solveWindow items.pitch wey).coord (sampleLean items k wex wey wcx wcy).y

theorem solve_x : ((solve items knots k wex wey wcx wcy).vals.x : Int)
    = heldCoord (items.xCoils * items.pitch) (sampleX items k wex wey wcx wcy) := toNat_heldCoord _ _

theorem solve_y : ((solve items knots k wex wey wcx wcy).vals.y : Int)
    = heldCoord (items.yCoils * items.pitch) (sampleY items k wex wey wcx wcy) := toNat_heldCoord _ _

theorem solve_clampedPos : (solve items knots k wex wey wcx wcy).vals.flags.clampedPos = true
    ↔ heldCoord (items.xCoils * items.pitch) (sampleX items k wex wey wcx wcy) ≠ sampleX items k wex wey wcx wcy
      ∨ heldCoord (items.yCoils * items.pitch) (sampleY items k wex wey wcx wcy) ≠ sampleY items k wex wey wcx wcy := by
  rw [← bne_iff_ne, ← bne_iff_ne, ← Bool.or_eq_true]
  rfl

theorem solve_edge : (solve items knots k wex wey wcx wcy).vals.flags.edge = true
    ↔ ((solveWindow items.pitch wex).mirrored = true ∧ peakOnEdge (solveWindow items.pitch wex) items.xCoils)
      ∨ ((solveWindow items.pitch wey).mirrored = true ∧ peakOnEdge (solveWindow items.pitch wey) items.yCoils) := by
  rw [← mirroredAtEdge_iff, ← mirroredAtEdge_iff, ← Bool.or_eq_true]
  rfl

theorem solve_fast : (solve items knots k wex wey wcx wcy).vals.flags.fast = true
    ↔ ((solveWindow items.pitch wex).mirrored = true ∧ ¬ peakOnEdge (solveWindow items.pitch wex) items.xCoils)
      ∨ ((solveWindow items.pitch wey).mirrored = true ∧ ¬ peakOnEdge (solveWindow items.pitch wey) items.yCoils) := by
  rw [← mirroredInside_iff, ← mirroredInside_iff, ← Bool.or_eq_true]
  rfl

/-- The collar windows count for DEFECT only where the collar is present (R97). -/
theorem solve_defect : (solve items knots k wex wey wcx wcy).vals.flags.defect = true
    ↔ (solveWindow items.pitch wex).defectNear = true ∨ (solveWindow items.pitch wey).defectNear = true
      ∨ ((sampleLean items k wex wey wcx wcy).absent = false
        ∧ ((solveWindow items.pitch wcx).defectNear = true ∨ (solveWindow items.pitch wcy).defectNear = true)) := by
  rw [← Bool.or_eq_true (solveWindow items.pitch wcx).defectNear, ← Bool.not_eq_true', ← Bool.and_eq_true, ← or_assoc,
    ← Bool.or_eq_true, ← Bool.or_eq_true]
  rfl

/-! ## Windows inside the array (R62, R76) -/

/-- A window of seven coils inside its axis, with readings in their ranges. -/
def windowInRange (w : WindowIn) : Prop :=
  w.readings.length = 7 ∧ w.first + 7 ≤ w.coils ∧ ∀ r ∈ w.readings, r.amp ≤ 65535 ∧ r.phase ≤ 4095

variable (pitch : Nat) {w : WindowIn} {coils : Nat}

theorem peakCoil_lt (h : windowInRange w) (hcoils : coils = w.coils) : (solveWindow pitch w).peakCoil < coils := by
  obtain ⟨hlen, hfit, -⟩ := h
  have hle := peakPlace_le hlen
  rw [solveWindow_peakCoil]
  omega

theorem peak_in_range (h : windowInRange w) : (solveWindow pitch w).amp ≤ 65535 ∧ (solveWindow pitch w).phase ≤ 4095 := by
  obtain ⟨hlen, -, hreadings⟩ := h
  exact solveWindow_bounded pitch hreadings (List.ne_nil_of_length_eq_add_one hlen)

theorem extent_pos (h : windowInRange w) (hcoils : coils = w.coils) (hp : 2 ≤ pitch) : 0 < coils * pitch := by
  obtain ⟨-, hfit, -⟩ := h
  exact Nat.mul_pos (by omega) (by omega)

/-- Settles O53: the values of a sample are read off the solver, and each has its range from the lemma of its stage. -/
theorem sampleInRange : Obligations.SampleInRange := by
  intro items knots k wex wey wcx wcy sm v ex ey cx cy lean corrected clamped x y onEdge
  have hcorrected : ∀ o t, corrected o t = correctedCoord k lean o.coord t := fun o t => (correctedCoord_eq k lean o.coord t).symm
  have hx : x = heldCoord (items.xCoils * items.pitch) (sampleX items k wex wey wcx wcy) :=
    congrArg (heldCoord _) (hcorrected ex lean.x)
  have hy : y = heldCoord (items.yCoils * items.pitch) (sampleY items k wex wey wcx wcy) :=
    congrArg (heldCoord _) (hcorrected ey lean.y)
  refine ⟨?values, fun _ hpitch hxe hye hxc hyc hwindows hfirst hlast hi ho hout => ?ranges⟩
  case values =>
    refine ⟨?_, ?_, ?_, rfl, rfl, rfl, rfl, rfl, rfl, rfl, rfl, solve_edge items knots k wex wey wcx wcy,
      solve_fast items knots k wex wey wcx wcy, solve_defect items knots k wex wey wcx wcy, rfl, rfl, rfl, rfl, rfl⟩
    · exact (solve_x items knots k wex wey wcx wcy).trans hx.symm
    · exact (solve_y items knots k wex wey wcx wcy).trans hy.symm
    · rw [hx, hy, hcorrected, hcorrected]
      exact solve_clampedPos items knots k wex wey wcx wcy
  case ranges =>
    have hwex : windowInRange wex := hwindows wex (by simp)
    have hwey : windowInRange wey := hwindows wey (by simp)
    have hwcx : windowInRange wcx := hwindows wcx (by simp)
    have hwcy : windowInRange wcy := hwindows wcy (by simp)
    have htravel : v.travel ≤ 4095 := heldTravel_le _
    obtain ⟨⟨hxl, hxh⟩, hyl, hyh⟩ := tilt_bounds k (min cx.amp cy.amp) (cx.coord - ex.coord) (cy.coord - ey.coord)
    obtain ⟨⟨hdxl, hdxh⟩, hdyl, hdyh⟩ := tilt_offset_bounds k (min cx.amp cy.amp) (cx.coord - ex.coord) (cy.coord - ey.coord)
    obtain ⟨hexAmp, -⟩ := peak_in_range items.pitch hwex
    obtain ⟨hcxAmp, hcxPhase⟩ := peak_in_range items.pitch hwcx
    exact ⟨Int.ofNat_lt.mp ((solve_x items knots k wex wey wcx wcy).trans_lt (heldCoord_lt (extent_pos _ hwex hxe hpitch) _)),
      Int.ofNat_lt.mp ((solve_y items knots k wex wey wcx wcy).trans_lt (heldCoord_lt (extent_pos _ hwey hye hpitch) _)),
      pressureOf_le hfirst hlast htravel hi ho hout, htravel, hxl, hxh, hyl, hyh,
      (min_le_left _ _).trans hexAmp, (min_le_left _ _).trans hcxAmp, hdxl, hdxh, hdyl, hdyh,
      peakCoil_lt items.pitch hwex hxe, peakCoil_lt items.pitch hwey hye, peakCoil_lt items.pitch hwcx hxc,
      peakCoil_lt items.pitch hwcy hyc,
      hcxPhase, tilt_absent_not_saturated k _ _ _, rfl⟩

end Sys2Proof.PositionSolver
end

section
/-!
PROOFS. Sequence numbers, and what the ring holds and reads back after an append (R101, R103 to R106) (O33).
-/

namespace Sys2Proof.StrokeRing

open Sys2Proof.Machine Sys2Proof.KindsAndCurves

variable (s : State) (p : PortId) (time : Time) (body : RecordBody)

/-! ## Distances of sequence numbers (spec 00 section 7.3) -/

theorem seqDist_self (a : Seq) : seqDist a a = 0 := by simp [seqDist]

theorem seqDist_lt (a b : Seq) : seqDist a b < 2 ^ 32 := (b - a).isLt

/-- The sequence a distance away. -/
theorem add_seqDist (a b : Seq) : a + BitVec.ofNat 32 (seqDist a b) = b := by
  unfold seqDist
  bv_omega

theorem seqDist_add (a : Seq) {j : Nat} (h : j < 2 ^ 32) : seqDist a (a + BitVec.ofNat 32 j) = j := by
  unfold seqDist
  bv_omega

theorem seqDist_eq_zero {a b : Seq} : seqDist a b = 0 ↔ a = b := by
  unfold seqDist
  constructor
  · intro h
    bv_omega
  · rintro rfl
    simp

theorem seqDist_succ_right {a b : Seq} (h : seqDist a b + 1 < 2 ^ 32) : seqDist a (b + 1) = seqDist a b + 1 := by
  unfold seqDist at *
  bv_omega

theorem seqDist_succ_left {a b : Seq} (h : a ≠ b) : seqDist (a + 1) b + 1 = seqDist a b := by
  unfold seqDist
  bv_omega

/-- What is left of a distance past a sequence on the way. -/
theorem seqDist_rest {a n b : Seq} (h : seqDist a n ≤ seqDist a b) : seqDist n b + seqDist a n = seqDist a b := by
  unfold seqDist at *
  bv_omega

/-! ## What the ring holds -/

/-- At most C records are held, the write position is inside the ring, and the ring is no larger than the banks (R99, R101). -/
def ringFits : Prop := s.count ≤ s.capacity ∧ s.ring.writePos < s.capacity ∧ s.capacity ≤ 4096

theorem holds_iff (n : Seq) : s.holds n = true ↔ seqDist s.ring.o n < s.count := by simp [State.holds]

/-- A sequence held is at least 1 and at most the count behind W. -/
theorem seqDist_of_holds {n : Seq} (h : s.holds n = true) : 1 ≤ seqDist n s.ring.w ∧ seqDist n s.ring.w ≤ s.count := by
  rw [holds_iff] at h
  have hrest := seqDist_rest (le_of_lt h)
  change _ = s.count at hrest
  omega

/-- A sequence held that is not O is less than the count behind W. -/
theorem seqDist_of_holds_ne {n : Seq} (h : s.holds n = true) (ho : n ≠ s.ring.o) : seqDist n s.ring.w < s.count := by
  rw [holds_iff] at h
  have hrest := seqDist_rest (le_of_lt h)
  have hpos : seqDist s.ring.o n ≠ 0 := fun hz => ho (seqDist_eq_zero.mp hz).symm
  change _ = s.count at hrest
  omega

/-- The ring slot of a sequence at most C behind W, counted back from the write position (R101). -/
theorem ringSlot_eq {n : Seq} (hw : s.ring.writePos < s.capacity) (hpos : 1 ≤ seqDist n s.ring.w)
    (hle : seqDist n s.ring.w ≤ s.capacity) :
    s.ringSlot n = if seqDist n s.ring.w ≤ s.ring.writePos then s.ring.writePos - seqDist n s.ring.w
      else s.ring.writePos + s.capacity - seqDist n s.ring.w := by
  unfold State.ringSlot
  obtain hlt | heq := lt_or_eq_of_le hle
  · rw [Nat.mod_eq_of_lt hlt]
    split
    · rw [Nat.mod_eq_sub_mod (by omega), Nat.mod_eq_of_lt (by omega)]
      omega
    · rw [Nat.mod_eq_of_lt (by omega)]
      omega
  · rw [heq, Nat.mod_self, Nat.sub_zero, Nat.add_mod_right, Nat.mod_eq_of_lt hw, if_neg (by omega)]
    omega

theorem ringSlot_lt {n : Seq} (hw : s.ring.writePos < s.capacity) : s.ringSlot n < s.capacity :=
  Nat.mod_lt _ (by omega)

/-! ## The ring after an append -/

/-- The new record stands where the write position was. -/
theorem append_ringSlot_w (hw : s.ring.writePos < s.capacity) : (s.append time body).ringSlot s.ring.w = s.ring.writePos := by
  have hd : seqDist s.ring.w (s.append time body).ring.w = 1 := by
    rw [State.append_ring]
    exact seqDist_add _ (j := 1) (by norm_num)
  have hw' : (s.append time body).ring.writePos < (s.append time body).capacity := append_writePos_lt s time body hw
  rw [ringSlot_eq _ hw' (by omega) (by rw [hd, append_capacity]; omega), hd, append_capacity, State.append_ring]
  simp only [State.nextWritePos]
  split <;> split <;> omega

/-- A record less than C behind W keeps its slot, which is not the one written. -/
theorem append_ringSlot {n : Seq} (hf : ringFits s) (hpos : 1 ≤ seqDist n s.ring.w) (hlt : seqDist n s.ring.w < s.capacity) :
    (s.append time body).ringSlot n = s.ringSlot n ∧ s.ringSlot n ≠ s.ring.writePos := by
  obtain ⟨-, hw, hcap⟩ := hf
  have hd : seqDist n (s.append time body).ring.w = seqDist n s.ring.w + 1 := by
    rw [State.append_ring]
    exact seqDist_succ_right (by omega)
  have hw' : (s.append time body).ring.writePos < (s.append time body).capacity := append_writePos_lt s time body hw
  rw [ringSlot_eq s hw hpos (le_of_lt hlt), ringSlot_eq _ hw' (by omega) (by rw [hd, append_capacity]; omega), hd,
    append_capacity, State.append_ring]
  simp only [State.nextWritePos]
  constructor
  · repeat' split
    all_goals omega
  · split <;> omega

theorem append_count (hf : ringFits s) :
    (s.append time body).count = if s.count < s.capacity then s.count + 1 else s.count := by
  obtain ⟨hc, hw, hcap⟩ := hf
  have hsucc : seqDist s.ring.o (s.ring.w + 1) = s.count + 1 := seqDist_succ_right (by change s.count + 1 < _; omega)
  rw [State.count, State.append_ring]
  by_cases hlt : s.count < s.capacity
  · simpa only [if_pos hlt] using hsucc
  · have hne : s.ring.o ≠ s.ring.w + 1 := fun h => by rw [← h, seqDist_self] at hsucc; omega
    have hleft := seqDist_succ_left hne
    simp only [if_neg hlt]
    omega

/-- After an append the ring holds what it held and the new record, but for the oldest of a full ring (R104). -/
theorem append_holds_iff (hf : ringFits s) (n : Seq) :
    (s.append time body).holds n = true
      ↔ n = s.ring.w ∨ (s.holds n = true ∧ ¬ (s.count = s.capacity ∧ n = s.ring.o)) := by
  have hcount := append_count s time body hf
  obtain ⟨hc, hw, hcap⟩ := hf
  have hoh : (s.append time body).ring.o = if s.count < s.capacity then s.ring.o else s.ring.o + 1 := by
    rw [State.append_ring]
  rw [holds_iff, holds_iff, hcount, hoh]
  have hnw : n = s.ring.w ↔ seqDist s.ring.o n = s.count := by
    constructor
    · rintro rfl
      rfl
    · intro h
      rw [← add_seqDist s.ring.o n, h]
      exact add_seqDist s.ring.o s.ring.w
  rw [hnw]
  by_cases hlt : s.count < s.capacity
  · rw [if_pos hlt, if_pos hlt]
    omega
  · rw [if_neg hlt, if_neg hlt]
    by_cases ho : n = s.ring.o
    · subst ho
      have hfar : seqDist (s.ring.o + 1) s.ring.o = 2 ^ 32 - 1 := by unfold seqDist; bv_omega
      rw [hfar, seqDist_self]
      simp only [and_true]
      omega
    · have hleft := seqDist_succ_left (Ne.symm ho)
      simp only [ho, and_false, not_false_eq_true, and_true]
      omega

theorem ringAddr_inj {j k : Nat} : s.ringAddr j = s.ringAddr k ↔ j = k := by
  unfold State.ringAddr bankAddr
  omega

@[simp] theorem append_ringAddr (k : Nat) : (s.append time body).ringAddr k = s.ringAddr k := by simp [State.ringAddr]

/-- The new record is read back. -/
theorem append_ringRead_w (hw : s.ring.writePos < s.capacity) (hh : (s.append time body).holds s.ring.w = true) :
    (s.append time body).ringRead s.ring.w = some (s.appendedRecord time body) := by
  rw [State.ringRead, if_pos hh, append_ringSlot_w s time body hw, State.append_store, append_ringAddr]
  exact Store.read_write_same _ _ _

/-- A record held is read back as it was, but for the oldest of a full ring. -/
theorem append_ringRead_held (hf : ringFits s) {n : Seq} (hn : s.holds n = true)
    (ho : ¬ (s.count = s.capacity ∧ n = s.ring.o)) : (s.append time body).ringRead n = s.ringRead n := by
  have hh := (append_holds_iff s time body hf n).mpr (.inr ⟨hn, ho⟩)
  obtain ⟨hpos, hle⟩ := seqDist_of_holds s hn
  have hlt : seqDist n s.ring.w < s.capacity := by
    obtain ⟨hc, -, -⟩ := hf
    by_cases hno : n = s.ring.o
    · have hroom : s.count ≠ s.capacity := fun hfull => ho ⟨hfull, hno⟩
      omega
    · have := seqDist_of_holds_ne s hn hno
      omega
  obtain ⟨hslot, hne⟩ := append_ringSlot s time body hf hpos hlt
  rw [State.ringRead, if_pos hh, State.ringRead, if_pos hn, hslot, State.append_store, append_ringAddr]
  exact Store.read_write_other _ _ _ _ ((ringAddr_inj s).not.mpr hne)

/-! ## AppendKeepsHistory -/

theorem ringFits_of_historyLaw (h : s.historyLaw) : ringFits s := by
  obtain ⟨-, hmax, -⟩ := historyLaw_bounds s .p0 h
  obtain ⟨-, -, ⟨hcount, hw, -⟩, -⟩ := h
  have hcap : s.capacity = 512 * s.items.ringBanks := Nat.mul_comm _ _
  exact ⟨hcount, hw, by omega⟩

/-- Settles O33: what the ring holds and reads after an append, by whether it was full. -/
theorem appendKeepsHistory : Obligations.AppendKeepsHistory := by
  intro s time body h t full
  have hf := ringFits_of_historyLaw s h
  have hholds := append_holds_iff s time body hf
  obtain ⟨hc, hw, -⟩ := id hf
  refine ⟨by rw [State.append_ring], ?_, append_ringRead_w s time body hw ((hholds _).mpr (.inl rfl)), fun n hn ho => ?_,
    fun hfull => ?_, fun n hn => ?_, appended_succ s t time body hw (appended_zero t)⟩
  · have hfull : full ↔ ¬ s.count < s.capacity := by
      change s.count = s.capacity ↔ _
      omega
    rw [State.append_ring]
    by_cases hlt : s.count < s.capacity <;> simp [hfull, hlt]
  · exact ⟨(hholds n).mpr (.inr ⟨hn, ho⟩), append_ringRead_held s time body hf hn ho⟩
  · rw [Bool.eq_false_iff]
    intro ht
    obtain hw' | ⟨-, hno⟩ := (hholds _).mp ht
    · have hzero : s.count = 0 := seqDist_eq_zero.mpr hw'
      have hcap : s.count = s.capacity := hfull
      omega
    · exact hno ⟨hfull, rfl⟩
  · exact ((hholds n).mp hn).imp_right And.left

end Sys2Proof.StrokeRing
end

section
/-!
PROOFS. What an append to a full ring does to the cursors and the captures, and what a flush does (R104, R107 to R109, R114,
R140) (O34, O32).
-/

namespace Sys2Proof.StrokeRing

open Sys2Proof.Machine Sys2Proof.KindsAndCurves Sys2Proof.ScanEngine

variable (s : State) (p q : PortId) (e : Fin 4) (time : Time) (body : RecordBody)

/-! ## Entries that fail (R108, R140) -/

section Failing

variable (hit : Held → Bool) (reason : FailReason)

/-- An entry that `hit` picks becomes FAILED. -/
def failHeld (h : Held) : Held := if hit h then { h with stage := .failed reason } else h

/-- Entry `e` fails where `hit` picks it, with CAPTURE raised on its owner's port. -/
def failPicked (e : Fin 4) (s : State) : State :=
  match s.entry e with
  | some h => if hit h then s.failEntry e h reason else s
  | none => s

/-- Whether CAPTURE is raised on port `q` by the failing of entry `e`. -/
def failsOn (e : Fin 4) (q : PortId) (s : State) : Bool := (s.entry e).any fun h => hit h && decide (h.owner = q)

theorem failPicked_cases :
    ((∀ h, s.entry e = some h → hit h = false) ∧ failPicked hit reason e s = s)
    ∨ ∃ h, s.entry e = some h ∧ hit h = true ∧ failPicked hit reason e s = s.failEntry e h reason := by
  unfold failPicked
  cases he : s.entry e with
  | none => exact .inl ⟨fun _ => nofun, rfl⟩
  | some h =>
    cases hh : hit h with
    | true => exact .inr ⟨h, rfl, hh, by simp [hh]⟩
    | false =>
      refine .inl ⟨fun h' he' => ?_, by simp [hh]⟩
      cases he'
      exact hh

theorem entry_failPicked (e' : Fin 4) :
    (failPicked hit reason e s).entry e' = if e' = e then (s.entry e').map (failHeld hit reason) else s.entry e' := by
  obtain ⟨hno, h⟩ | ⟨x, he, hx, h⟩ := failPicked_cases s e hit reason <;> rw [h]
  · split
    · next heq =>
      subst heq
      cases he : s.entry e' with
      | none => rfl
      | some x => simp [failHeld, hno x he]
    · rfl
  · have hset : (s.failEntry e x reason).entry e' = (s.setEntry e (some { x with stage := .failed reason })).entry e' := by
      simp [State.failEntry, State.entry]
    rw [hset, State.entry_setEntry]
    split
    · next heq => rw [heq, he]; simp [failHeld, hx]
    · rfl

theorem port_failPicked :
    (failPicked hit reason e s).port q
      = { s.port q with
          latched := { (s.port q).latched with capture := (s.port q).latched.capture || failsOn hit e q s } } := by
  obtain ⟨hno, h⟩ | ⟨x, he, hx, h⟩ := failPicked_cases s e hit reason <;> rw [h]
  · have hf : failsOn hit e q s = false := by
      unfold failsOn
      cases he : s.entry e with
      | none => rfl
      | some x => simp [hno x he]
    simp [hf]
  · have hf : failsOn hit e q s = decide (x.owner = q) := by simp [failsOn, he, hx]
    rw [hf, State.failEntry]
    obtain hq | hq := PortId.eq_or_other x.owner q <;> subst hq
    · simp [Latched.raise]
    · simp

/-- Every entry that `hit` picks fails, `t` after. -/
theorem forEntries_failPicked :
    (∀ e, (s.forEntries (failPicked hit reason)).entry e = (s.entry e).map (failHeld hit reason))
    ∧ ∀ q, ∃ capture : Bool,
        (capture = true
          ↔ (s.port q).latched.capture = true ∨ ∃ e h, s.entry e = some h ∧ hit h = true ∧ h.owner = q)
        ∧ (s.forEntries (failPicked hit reason)).port q
          = { s.port q with latched := { (s.port q).latched with capture := capture } } := by
  refine ⟨fun e => ?_, fun q => ?_⟩
  · unfold State.forEntries
    fin_cases e <;> simp [entry_failPicked]
  · refine ⟨(s.port q).latched.capture || (failsOn hit 0 q s || failsOn hit 1 q s || failsOn hit 2 q s || failsOn hit 3 q s),
      ?_, ?_⟩
    · have hon (e : Fin 4) : failsOn hit e q s = true ↔ ∃ h, s.entry e = some h ∧ hit h = true ∧ h.owner = q := by
        simp [failsOn, Option.any_eq_true]
      simp only [Bool.or_eq_true, hon, Fin.exists_fin_succ, or_assoc]
      simp
    · simp [State.forEntries, port_failPicked, failsOn, entry_failPicked, Bool.or_assoc]

end Failing

/-! ## The overwriting of the oldest record (R104, R114, R140) -/

/-- An entry whose next record is `old` while it is FILLING (R140). -/
def awaits (old : Seq) (h : Held) : Bool := decide (h.stage = .filling ∧ h.nextSeq = some old)

theorem overtakeEntry_eq (old : Seq) : State.overtakeEntry old = failPicked (awaits old) .overtaken := by
  funext e s
  unfold State.overtakeEntry failPicked
  cases s.entry e with
  | none => rfl
  | some h => simp [awaits]

/-- A port whose cursor has been lapped at `old`, where it stood there (R114). -/
def lappedPort (old : Seq) (x : Port) : Port :=
  if x.cursor.next = old then
    match x.cursor.mode with
    | .sequential => { x with
        cursor := { x.cursor with next := old + 1, skipped := addSkipped x.cursor.skipped 1, moved := true }
        latched := { x.latched with lapped := true } }
    | .latest => { x with cursor := { x.cursor with next := old + 1, moved := true } }
  else x

theorem lappedPort_of_ne {old : Seq} {x : Port} (h : x.cursor.next ≠ old) : lappedPort old x = x := if_neg h

theorem lappedPort_sequential {old : Seq} {x : Port} (h : x.cursor.next = old) (hm : x.cursor.mode = .sequential) :
    lappedPort old x = { x with
      cursor := { x.cursor with next := old + 1, skipped := addSkipped x.cursor.skipped 1, moved := true }
      latched := { x.latched with lapped := true } } := by
  rw [lappedPort, if_pos h, hm]

theorem lappedPort_latest {old : Seq} {x : Port} (h : x.cursor.next = old) (hm : x.cursor.mode = .latest) :
    lappedPort old x = { x with cursor := { x.cursor with next := old + 1, moved := true } } := by
  rw [lappedPort, if_pos h, hm]

theorem lappedPort_capture (old : Seq) (x : Port) : (lappedPort old x).latched.capture = x.latched.capture := by
  by_cases h : x.cursor.next = old
  · cases hm : x.cursor.mode with
    | sequential => rw [lappedPort_sequential h hm]
    | latest => rw [lappedPort_latest h hm]
  · rw [lappedPort_of_ne h]

theorem port_lapCursor (old : Seq) :
    (s.lapCursor p old).port q = if q = p then lappedPort old (s.port q) else s.port q := by
  obtain ⟨hn, h⟩ | ⟨hn, hm, h⟩ | ⟨hn, hm, h⟩ := s.lapCursor_cases p old <;> rw [h]
  · split
    · next heq => rw [heq, lappedPort_of_ne hn]
    · rfl
  all_goals
    obtain rfl | rfl := PortId.eq_or_other p q
    · simp [lappedPort_sequential, lappedPort_latest, hn, hm, Latched.raise]
    · simp

/-- The state in which the cursors and the captures find a full ring's append: the record written, O one on. -/
def overwritten (s : State) (time : Time) (body : RecordBody) : State :=
  { s with
    store := Store.write s.store (s.ringAddr s.ring.writePos) (s.appendedRecord time body)
    ring := { w := s.ring.w + 1, o := s.ring.o + 1, writePos := s.nextWritePos } }

theorem append_full (hc : ¬ s.count < s.capacity) :
    s.append time body
      = ((overwritten s time body).forPorts fun p t => t.lapCursor p s.ring.o).forEntries
          (failPicked (awaits s.ring.o) .overtaken) := by
  rw [← overtakeEntry_eq, State.append, if_neg hc]
  rfl

theorem port_forPorts_lapCursor (old : Seq) :
    (s.forPorts fun p t => t.lapCursor p old).port q = lappedPort old (s.port q) := by
  unfold State.forPorts
  rw [port_lapCursor, port_lapCursor]
  cases q <;> simp

theorem entry_forPorts_lapCursor (old : Seq) : (s.forPorts fun p t => t.lapCursor p old).entry e = s.entry e := by
  simp [State.forPorts, State.entry]

/-- The captures after an append to a full ring: those that awaited O have been overtaken. -/
theorem append_full_entry (hc : ¬ s.count < s.capacity) :
    (s.append time body).entry e = (s.entry e).map (failHeld (awaits s.ring.o) .overtaken) := by
  rw [append_full s time body hc, (forEntries_failPicked _ _ _).1, entry_forPorts_lapCursor]
  rfl

/-- A port after an append to a full ring: its cursor lapped where it stood at O, and CAPTURE raised where it owns a capture
that awaited O. -/
theorem append_full_port (hc : ¬ s.count < s.capacity) :
    ∃ capture : Bool,
      (capture = true
        ↔ (s.port q).latched.capture = true ∨ ∃ e h, s.entry e = some h ∧ awaits s.ring.o h = true ∧ h.owner = q)
      ∧ (s.append time body).port q
        = { lappedPort s.ring.o (s.port q) with
            latched := { (lappedPort s.ring.o (s.port q)).latched with capture := capture } } := by
  have hport : (overwritten s time body).port q = s.port q := by cases q <;> rfl
  have hentry (e : Fin 4) : (overwritten s time body).entry e = s.entry e := rfl
  have h := (forEntries_failPicked ((overwritten s time body).forPorts fun p t => t.lapCursor p s.ring.o)
    (awaits s.ring.o) .overtaken).2 q
  rw [← append_full s time body hc, port_forPorts_lapCursor, hport, lappedPort_capture] at h
  simpa only [entry_forPorts_lapCursor, hentry] using h

/-- Settles O34: the cursors lapped and the captures overtaken, each by whether it stood at O. -/
theorem overwriteLapsAndOvertakes : Obligations.OverwriteLapsAndOvertakes := by
  intro s time body hfull t atOld hit
  have hc : ¬ s.count < s.capacity := by omega
  have hhit (e : Fin 4) (h : Held) : hit e h ↔ s.entry e = some h ∧ awaits s.ring.o h = true := by
    simp [hit, awaits, Held.nextSeq]
  have hrec := recordsOnly_append s time body
  refine ⟨fun p => ?_, fun e h hh => ?_, fun e hno => ?_, ?_⟩
  · obtain ⟨capture, hiff, hport⟩ := append_full_port s p time body hc
    refine ⟨capture, ?_, fun ho => ?_, fun ho hm => ?_, fun ho hm => ?_⟩
    · simpa only [hhit, and_assoc] using hiff
    · rw [hport, lappedPort_of_ne ho]
    · rw [hport, lappedPort_sequential ho hm]
      rfl
    · rw [hport, lappedPort_latest ho hm]
  · obtain ⟨he, ha⟩ := (hhit e h).mp hh
    rw [append_full_entry s e time body hc, he]
    simp [failHeld, ha]
  · rw [append_full_entry s e time body hc]
    cases he : s.entry e with
    | none => rfl
    | some h =>
      have ha : ¬ awaits s.ring.o h = true := fun ha => hno h ((hhit e h).mpr ⟨he, ha⟩)
      simp [failHeld, ha]
  · unfold recordsOnly at hrec
    rw [State.append_slot0, State.append_slot1] at hrec
    exact hrec

/-! ## The flush (R107, R108) -/

/-- An entry that a flush makes FAILED (R108). -/
def unfinished (h : Held) : Bool := decide (h.stage = .armed ∨ h.stage = .filling)

theorem flushEntry_eq : State.flushEntry = failPicked unfinished .flushed := by
  funext e s
  unfold State.flushEntry failPicked
  cases s.entry e with
  | none => rfl
  | some h => simp [unfinished]

/-- The state in which a flush finds the captures: O at W, and each cursor at W without mark. -/
def emptied (s : State) : State := ({ s with ring := { s.ring with o := s.ring.w } } : State).forPorts State.flushCursor

theorem flushRing_eq : s.flushRing = ((emptied s).forEntries (failPicked unfinished .flushed)).raiseBoth .ring := by
  rw [← flushEntry_eq]
  rfl

theorem emptied_entry : (emptied s).entry e = s.entry e := rfl

/-- The captures after a flush. -/
theorem flushRing_entry : s.flushRing.entry e = (s.entry e).map (failHeld unfinished .flushed) := by
  have h := (forEntries_failPicked (emptied s) unfinished .flushed).1 e
  rw [emptied_entry] at h
  rw [flushRing_eq, State.entry, State.raiseBoth_entries]
  exact h

/-- A port after a flush: its cursor at W without mark, RING raised, and CAPTURE where it owns a capture that failed. -/
theorem flushRing_port :
    ∃ capture : Bool,
      (capture = true ↔ (s.port q).latched.capture = true ∨ ∃ e h, s.entry e = some h ∧ unfinished h = true ∧ h.owner = q)
      ∧ s.flushRing.port q
        = { flushedPort s.ring.w (s.port q) with
            latched := { (flushedPort s.ring.w (s.port q)).latched with capture := capture } } := by
  obtain ⟨capture, hiff, hport⟩ := (forEntries_failPicked (emptied s) unfinished .flushed).2 q
  have hemptied : (emptied s).port q = { s.port q with
      cursor := { (s.port q).cursor with next := s.ring.w, mark := none, moved := true } } := by cases q <;> rfl
  rw [hemptied] at hport hiff
  simp only [emptied_entry] at hiff
  refine ⟨capture, hiff, ?_⟩
  rw [flushRing_eq, State.raiseBoth_port, hport]
  rfl

theorem flushRing_cursor : (s.flushRing.port q).cursor
    = { (s.port q).cursor with next := s.ring.w, mark := none, moved := true } := by
  obtain ⟨_, -, h⟩ := flushRing_port s q
  rw [h]
  rfl

theorem flushRing_count : s.flushRing.count = 0 := by simp [State.count, seqDist_self]

theorem entries_ext {x y : Vector (Option Held) 4} (h : ∀ e : Fin 4, x[e] = y[e]) : x = y :=
  Vector.ext fun i hi => h ⟨i, hi⟩

/-- A flush, then an append: the record is the one held, at the lag of 1 (R109). -/
theorem append_of_empty (hz : s.count = 0) (hw : s.ring.writePos < s.capacity) :
    (s.append time body).ring.o = s.ring.o ∧ (s.append time body).ring.w = s.ring.w + 1 ∧ (s.append time body).count = 1
    ∧ (s.append time body).entries = s.entries
    ∧ (s.append time body).ringRead s.ring.w = some (s.appendedRecord time body)
    ∧ ∀ q, (s.append time body).port q = s.port q := by
  have hroom : s.count < s.capacity := by omega
  obtain ⟨h0, h1, hentries⟩ := s.append_room time body hroom
  have how : s.ring.o = s.ring.w := seqDist_eq_zero.mp hz
  have ho : (s.append time body).ring.o = s.ring.o := by rw [State.append_ring, if_pos hroom]
  have hw1 : (s.append time body).ring.w = s.ring.w + 1 := by rw [State.append_ring]
  have hcount : (s.append time body).count = 1 := by
    rw [State.count, ho, hw1, how]
    exact seqDist_add _ (j := 1) (by norm_num)
  have hholds : (s.append time body).holds s.ring.w = true := by
    rw [holds_iff, hcount, ho, how, seqDist_self]
    omega
  exact ⟨ho, hw1, hcount, hentries, append_ringRead_w s time body hw hholds, fun q => by cases q <;> assumption⟩

theorem append_receiving : (s.append time body).receiving p = s.receiving p := by
  obtain ⟨hframing, -⟩ := sameFraming_of_portAppended (append_portLapped s p time body).2
  simp only [State.receiving, hframing]

theorem exec_flush (hr : s.receiving p = true) :
    exec (.flush p) s
      = .next (s.flushRing.answered p { result := .ok, fields := [.u32 s.ring.w, .u32 s.ring.w] } .none) := by
  refine congrArg Host.Outcome.next ((State.onRequest_receiving s p _ hr).trans ?_)
  simp [State.answerFlush]

theorem answered_cursor (r : Reply) (x : Xfer) : ((s.answered p r x).port q).cursor = (s.port q).cursor := by
  obtain rfl | rfl := PortId.eq_or_other p q
  · simp [State.answered]
  · simp

/-- Settles O32: the flush by what it does to the entries and the ports, and beside an append in either order. -/
theorem flushEmptiesRing : Obligations.FlushEmptiesRing := by
  intro s p hr failed hit
  have hpicked (h : Held) : unfinished h = true ↔ h.stage = .armed ∨ h.stage = .filling := by simp [unfinished]
  have hfailed : (fun x : Option Held => x.map (failHeld unfinished .flushed)) = failed := by
    funext x
    refine congrArg (fun f => Option.map f x) (funext fun h => ?_)
    simp only [failHeld, hpicked]
  have hentries : s.flushRing.entries = s.entries.map failed := by
    refine entries_ext fun e => (flushRing_entry s e).trans ?_
    rw [← hfailed]
    simp [State.entry]
  refine ⟨s.flushRing, exec_flush s p hr, ?_, fun q => ?_, fun time body hw => ⟨?_, ?_⟩⟩
  · have honly := s.ringOnly_flush
    unfold State.ringOnly at honly
    rwa [State.flushRing_ring, hentries] at honly
  · obtain ⟨capture, hiff, hport⟩ := flushRing_port s q
    refine ⟨capture, ?_, hport⟩
    simpa only [hit, hpicked] using hiff
  · let flushed := s.flushRing.answered p { result := .ok, fields := [.u32 s.ring.w, .u32 s.ring.w] } .none
    have hring : flushed.ring = { s.ring with o := s.ring.w } := by simp [flushed]
    have hcap : flushed.capacity = s.capacity := by simp [flushed, State.capacity]
    have hz : flushed.count = 0 := by simp [State.count, hring, seqDist_self]
    obtain ⟨ho, hw1, hcount, hent, hread, hport⟩ := append_of_empty flushed time body hz (by rw [hring, hcap]; exact hw)
    have htile : flushed.tile = s.tile := by simp [flushed]
    refine ⟨ho.trans (by rw [hring]), hw1.trans (by rw [hring]), hcount, hent.trans (by simp [flushed]), ?_, fun q => ?_⟩
    · rw [hring] at hread
      rw [hread, State.appendedRecord, hring, htile]
    · rw [hport, answered_cursor, flushRing_cursor]
  · let appended := s.append time body
    have hr' : appended.receiving p = true := (append_receiving s p time body).trans hr
    have hw1 : appended.ring.w = s.ring.w + 1 := by simp only [appended, State.append_ring]
    refine ⟨_, exec_flush appended p hr', ?_, ?_, ?_, fun q => ?_⟩
    · simp [hw1]
    · simp [hw1]
    · rw [State.ringRead, if_neg]
      rw [holds_iff]
      simp [State.count, seqDist_self]
    · rw [answered_cursor, flushRing_cursor, hw1]

end Sys2Proof.StrokeRing
end

section
/-!
PROOFS. The places of a SEQUENTIAL READ (R106, R117, R118) (O12).
-/

namespace Sys2Proof.StrokeRing

open Sys2Proof.Machine

variable (s : State) (p : PortId)

/-- The cursor and the response of a port replaced together. -/
theorem setResp_setCursor (c : Cursor) (left : Nat) (resp : Resp) :
    (s.setCursor p c).setResp p left resp
      = s.setPort p { s.port p with cursor := c, framing := .response left resp } := by
  cases p <;> rfl

/-- A place that is due begins (R117). -/
theorem readPlaceBegin_due {left k done : Nat} {resp : Resp} (hf : (s.port p).framing = .response left resp)
    (hx : resp.xfer = .read k done none) (hk : done < k) :
    s.readPlaceBegin p = s.setPort p { s.port p with
      cursor := { (s.port p).cursor with moved := false }
      framing := .response left
        { resp with outBits := resp.placeStart done, xfer := .read k done (some (s.readPlace p)) } } := by
  rw [← setResp_setCursor]
  simp only [State.readPlaceBegin, hf, hx, hk, if_true]

/-- A place that has been sent is complete (R117). -/
theorem readRecordComplete_sent {left k done : Nat} {resp : Resp} {pl : Place}
    (hf : (s.port p).framing = .response left resp) (hx : resp.xfer = .read k done (some pl)) :
    s.readRecordComplete p = s.setPort p { s.port p with
      cursor := (s.port p).cursor.sent pl
      framing := .response transactionTime
        { resp with outBits := resp.placeStart (done + 1), xfer := .read k (done + 1) none } } := by
  rw [← setResp_setCursor]
  simp only [State.readRecordComplete, hf, hx]

theorem readPlace_eq : s.readPlace p
    = match s.ringRead (s.port p).cursor.next with
      | some r => .stroke r
      | none => .void (s.port p).cursor.next := rfl

/-- Past a record next advances where it still stands at it; past a VOID filler never (R117, R118). -/
theorem sent_stroke (c : Cursor) (r : Record) :
    c.sent (.stroke r) = { c with next := if c.next = r.seq ∧ c.moved = false then c.next + 1 else c.next } := by
  unfold Cursor.sent
  dsimp only
  split <;> rfl

/-- Settles O12: the place begun is State.readPlace, and the cursor after it is Cursor.sent. -/
theorem sequentialReadPlaces : Obligations.SequentialReadPlaces := by
  intro s p left resp k done hf c
  refine ⟨fun hx hk => congrArg Host.Outcome.next ?_, fun r hx => congrArg Host.Outcome.next ?_,
    fun n hx => congrArg Host.Outcome.next ?_⟩
  · rw [readPlaceBegin_due s p hf hx hk, readPlace_eq]
    rfl
  · rw [readRecordComplete_sent s p hf hx, sent_stroke]
    rfl
  · rw [readRecordComplete_sent s p hf hx]
    rfl

end Sys2Proof.StrokeRing
end

section
/-!
PROOFS. The law of the stroke history taken apart: what is stored, and what each transfer finds; and what the law reads of a state
(R99 to R101, R112, R117, R129, R143).
-/

namespace Sys2Proof.StrokeRing

open Sys2Proof.Machine Sys2Proof.KindsAndCurves

variable (s t : State) (p q : PortId) (e : Fin 4)

/-! ## The parts of the law -/

/-- The record places that the response of a port fills while it is sent; none outside a response. -/
def transfer (x : Port) : Xfer :=
  match x.framing with
  | .response _ resp => resp.xfer
  | .idle | .request _ _ | .discarding => .none

/-- What a transfer of port `p` with cursor `c` finds in the ring and in the captures (R117, R143). -/
def finds (s : State) (p : PortId) (c : Cursor) : Xfer → Prop
  | .read _ _ (some (.stroke r)) => c.moved = false → c.next = r.seq ∧ s.holds r.seq = true
  | .capture e true first k done cur =>
    ∃ h w, s.entry e = some h ∧ h.owner = p ∧ h.stage = .ready ∧ h.window = some w
      ∧ h.readPos + (k - done) ≤ w.target ∧ done ≤ k ∧ (cur.isSome = true → done < k)
      ∧ w.start + BitVec.ofNat 32 h.readPos = first + BitVec.ofNat 32 done
  | .capture _ false _ _ _ _ | .read _ _ none | .read _ _ (some (.void _)) | .none => True

theorem transferLaw_iff : s.transferLaw p ↔ finds s p (s.port p).cursor (transfer (s.port p)) := by
  unfold State.transferLaw transfer
  cases (s.port p).framing with
  | response left resp =>
    dsimp only
    rcases resp.xfer with _ | ⟨k, done, _ | ⟨r⟩ | n⟩ | ⟨e, _ | _, first, k, done, cur⟩ <;> rfl
  | _ => rfl

/-- A cursor within O..W, its thresholds within the capacity and skipped saturated (R112, R113). -/
def cursorFits (s : State) (c : Cursor) : Prop :=
  seqDist c.next s.ring.w ≤ s.count ∧ 1 ≤ c.ready ∧ c.ready ≤ s.capacity ∧ c.margin < s.capacity ∧ c.skipped ≤ 65535

/-- An entry in a bank outside the ring, its fields as its state says (R98, R129). -/
def heldFits (s : State) (h : Held) : Prop :=
  s.items.isRingBank h.bank = false ∧ s.windowLaw h ∧ h.stageLaw ∧ h.reachLaw

/-- No two entries share a bank (R130). -/
def banksApart (s : State) : Prop :=
  ∀ e e' h h', s.entry e = some h → s.entry e' = some h' → h.bank = h'.bank → e = e'

/-- What the law says of the items, the banks, the ring, the cursors and the captures. -/
structure Stored (s : State) : Prop where
  items : s.items.lawful
  wf : Store.wf s.store
  ring : s.ringLaw
  cursor : ∀ p, cursorFits s (s.port p).cursor
  held : ∀ e h, s.entry e = some h → heldFits s h
  apart : banksApart s

theorem historyLaw_iff : s.historyLaw ↔ Stored s ∧ ∀ p, finds s p (s.port p).cursor (transfer (s.port p)) := by
  simp only [← transferLaw_iff]
  constructor
  · rintro ⟨hitems, hwf, hring, hc0, hc1, ⟨hheld, hapart⟩, ht0, ht1⟩
    exact ⟨⟨hitems, hwf, hring, fun p => by cases p <;> assumption, hheld, hapart⟩, fun p => by cases p <;> assumption⟩
  · rintro ⟨⟨hitems, hwf, hring, hc, hheld, hapart⟩, ht⟩
    exact ⟨hitems, hwf, hring, hc .p0, hc .p1, ⟨hheld, hapart⟩, ht .p0, ht .p1⟩

/-- The law of the ring, by the sequences it holds (R101, R105). -/
theorem ringLaw_iff : s.ringLaw
    ↔ s.count ≤ s.capacity ∧ s.ring.writePos < s.capacity
      ∧ ∀ n, s.holds n = true → (s.ringRead n).map Record.seq = some n := by
  have hseq : (∀ j, j < s.count → (s.ringRead (s.ring.o + BitVec.ofNat 32 j)).map Record.seq
        = some (s.ring.o + BitVec.ofNat 32 j))
      ↔ ∀ n, s.holds n = true → (s.ringRead n).map Record.seq = some n := by
    constructor
    · intro h n hn
      have hj := h _ ((holds_iff s n).mp hn)
      rwa [add_seqDist] at hj
    · intro h j hj
      have hlt := lt_trans hj (seqDist_lt s.ring.o s.ring.w)
      exact h _ ((holds_iff s _).mpr (by rwa [seqDist_add _ hlt]))
  unfold State.ringLaw
  rw [hseq]

/-- What is held is read back with its sequence (R101, R106). -/
theorem ringRead_of_holds (h : s.ringLaw) {n : Seq} (hn : s.holds n = true) : ∃ r, s.ringRead n = some r ∧ r.seq = n := by
  obtain ⟨-, -, hread⟩ := (ringLaw_iff s).mp h
  exact Option.map_eq_some_iff.mp (hread n hn)

/-- What is read is held, and carries its sequence. -/
theorem seq_of_ringRead (h : s.ringLaw) {n : Seq} {r : Record} (hr : s.ringRead n = some r) :
    s.holds n = true ∧ r.seq = n := by
  have hn : s.holds n = true := by
    by_contra hno
    rw [State.ringRead, if_neg hno] at hr
    cases hr
  obtain ⟨r', hr', hseq⟩ := ringRead_of_holds s h hn
  rw [hr'] at hr
  cases hr
  exact ⟨hn, hseq⟩

theorem transfer_of_response {x : Port} {left : Nat} {resp : Resp} (h : x.framing = .response left resp) :
    transfer x = resp.xfer := by
  rw [transfer, h]

theorem transfer_of_receiving (h : s.receiving p = true) : transfer (s.port p) = .none := by
  unfold State.receiving at h
  unfold transfer
  cases hf : (s.port p).framing <;> simp_all

theorem transfer_of_sameFraming {x y : Port} (h : sameFraming x y) : transfer y = transfer x := by
  rw [transfer, h.1, transfer]

/-! ## What the law reads of a state -/

/-- `t` has the history of `s`: items, banks, ring, captures, and of each port the cursor and the transfer. -/
structure SameHistory (s t : State) : Prop where
  items : t.items = s.items
  store : t.store = s.store
  ring : t.ring = s.ring
  entries : t.entries = s.entries
  cursor : ∀ p, (t.port p).cursor = (s.port p).cursor
  transfer : ∀ p, transfer (t.port p) = transfer (s.port p)

theorem sameHistory_refl : SameHistory s s := ⟨rfl, rfl, rfl, rfl, fun _ => rfl, fun _ => rfl⟩

theorem sameHistory_trans {s t u : State} (h : SameHistory s t) (k : SameHistory t u) : SameHistory s u :=
  ⟨k.items.trans h.items, k.store.trans h.store, k.ring.trans h.ring, k.entries.trans h.entries,
    fun p => (k.cursor p).trans (h.cursor p), fun p => (k.transfer p).trans (h.transfer p)⟩

/-- A change of a port beside its cursor and its transfer. -/
theorem sameHistory_setPort {x : Port} (hc : x.cursor = (s.port p).cursor) (ht : transfer x = transfer (s.port p)) :
    SameHistory s (s.setPort p x) := by
  refine ⟨by simp, by simp, by simp, by simp, fun q => ?_, fun q => ?_⟩ <;> rw [State.port_setPort] <;> split
  · next h => rw [hc, h]
  · rfl
  · next h => rw [ht, h]
  · rfl

/-- A change beside the items, the banks, the ring, the captures and the ports. -/
theorem sameHistory_of_eq (hi : t.items = s.items) (hst : t.store = s.store) (hr : t.ring = s.ring)
    (he : t.entries = s.entries) (h0 : t.port0 = s.port0) (h1 : t.port1 = s.port1) : SameHistory s t := by
  have hp (p : PortId) : t.port p = s.port p := by cases p <;> assumption
  exact ⟨hi, hst, hr, he, fun p => by rw [hp], fun p => by rw [hp]⟩

/-- A state with the items, the banks and the ring of another has its ring law and its held sequences. -/
theorem ringLaw_congr (hi : t.items = s.items) (hst : t.store = s.store) (hr : t.ring = s.ring) (h : s.ringLaw) :
    t.ringLaw := by
  have hcap : t.capacity = s.capacity := by rw [State.capacity, hi, State.capacity]
  have hcount : t.count = s.count := by rw [State.count, hr, State.count]
  have hread (n : Seq) : t.ringRead n = s.ringRead n := by
    have hholds : t.holds n = s.holds n := by rw [State.holds, hcount, hr, State.holds]
    have haddr : t.ringAddr (t.ringSlot n) = s.ringAddr (s.ringSlot n) := by
      rw [State.ringAddr, State.ringSlot, hcap, hr, hi, State.ringAddr, State.ringSlot]
    rw [State.ringRead, hholds, haddr, hst, State.ringRead]
  obtain ⟨hle, hw, hseq⟩ := h
  exact ⟨by rwa [hcount, hcap], by rwa [hr, hcap], fun j hj => by rw [hread, hr]; exact hseq j (hcount ▸ hj)⟩

theorem cursorFits_congr (hi : t.items = s.items) (hr : t.ring = s.ring) {c : Cursor} (h : cursorFits s c) :
    cursorFits t c := by
  simpa only [cursorFits, State.capacity, State.count, hi, hr] using h

/-- An entry whose bank reads as before fits as before. -/
theorem heldFits_congr (hi : t.items = s.items) {h : Held}
    (hread : ∀ j, j < h.copied → j < 512 →
      Store.read t.store (bankAddr h.bank.val j) = Store.read s.store (bankAddr h.bank.val j))
    (hf : heldFits s h) : heldFits t h := by
  obtain ⟨hbank, hwin, hrest⟩ := hf
  refine ⟨by rwa [hi], ?_, hrest⟩
  unfold State.windowLaw at hwin ⊢
  split at hwin
  · exact hwin
  · obtain ⟨htarget, hcopied, hpos, hcopies⟩ := hwin
    exact ⟨htarget, hcopied, hpos, fun j hj => by rw [hread j hj (by omega)]; exact hcopies j hj⟩

/-- What a transfer finds is read from the ring and the entries. -/
theorem finds_congr {c : Cursor} {x : Xfer} (hr : t.ring = s.ring) (he : t.entries = s.entries) (h : finds s p c x) :
    finds t p c x := by
  have hholds (n : Seq) : t.holds n = s.holds n := by rw [State.holds, State.count, hr, State.holds, State.count]
  have hentry (e : Fin 4) : t.entry e = s.entry e := by rw [State.entry, he, State.entry]
  unfold finds at h ⊢
  simpa only [hholds, hentry] using h

theorem historyLaw_same {s t : State} (h : SameHistory s t) (hs : s.historyLaw) : t.historyLaw := by
  obtain ⟨hst, hfinds⟩ := (historyLaw_iff s).mp hs
  have hentry (e : Fin 4) : t.entry e = s.entry e := by rw [State.entry, h.entries, State.entry]
  refine (historyLaw_iff t).mpr ⟨⟨?_, ?_, ?_, fun p => ?_, fun e x hx => ?_, ?_⟩, fun p => ?_⟩
  · rw [h.items]; exact hst.items
  · rw [h.store]; exact hst.wf
  · exact ringLaw_congr s t h.items h.store h.ring hst.ring
  · rw [h.cursor]; exact cursorFits_congr s t h.items h.ring (hst.cursor p)
  · exact heldFits_congr s t h.items (fun _ _ _ => by rw [h.store]) (hst.held e x (hentry e ▸ hx))
  · simpa only [banksApart, hentry] using hst.apart
  · rw [h.cursor, h.transfer]; exact finds_congr s t p h.ring h.entries (hfinds p)

/-! ## A port or an entry replaced -/

/-- A port replaced keeps the law where its new cursor fits and its transfer finds what it sends. -/
theorem historyLaw_setPort (hs : s.historyLaw) {x : Port} (hc : cursorFits s x.cursor)
    (hx : finds s p x.cursor (transfer x)) : (s.setPort p x).historyLaw := by
  obtain ⟨hst, hfinds⟩ := (historyLaw_iff s).mp hs
  have hi : (s.setPort p x).items = s.items := by simp
  have hm : (s.setPort p x).store = s.store := by simp
  have hr : (s.setPort p x).ring = s.ring := by simp
  have he : (s.setPort p x).entries = s.entries := by simp
  have hentry (e : Fin 4) : (s.setPort p x).entry e = s.entry e := by rw [State.entry, he, State.entry]
  refine (historyLaw_iff _).mpr ⟨⟨?_, ?_, ?_, fun q => ?_, fun e y hy => ?_, ?_⟩, fun q => ?_⟩
  · rw [hi]; exact hst.items
  · rw [hm]; exact hst.wf
  · exact ringLaw_congr s _ hi hm hr hst.ring
  · refine cursorFits_congr s _ hi hr ?_
    rw [State.port_setPort]
    split
    · exact hc
    · exact hst.cursor q
  · exact heldFits_congr s _ hi (fun _ _ _ => by rw [hm]) (hst.held e y (hentry e ▸ hy))
  · simpa only [banksApart, hentry] using hst.apart
  · refine finds_congr s _ q hr he ?_
    rw [State.port_setPort]
    split
    · next heq => rwa [heq]
    · exact hfinds q

/-- A cursor replaced, where the port sends no record. -/
theorem historyLaw_setCursor (hs : s.historyLaw) (hr : transfer (s.port p) = .none) {c : Cursor} (hc : cursorFits s c) :
    (s.setCursor p c).historyLaw := by
  refine historyLaw_setPort s p hs hc ?_
  rw [show transfer { s.port p with cursor := c } = transfer (s.port p) from rfl, hr]
  trivial

/-- A transfer that does not read entry `e` finds what it did. -/
theorem finds_setEntry (z : Option Held) {c : Cursor} {x : Xfer} (h : finds s p c x)
    (hno : ∀ first k done cur, x ≠ .capture e true first k done cur) : finds (s.setEntry e z) p c x := by
  rcases x with _ | ⟨k, done, _ | ⟨r⟩ | n⟩ | ⟨e', _ | _, first, k, done, cur⟩
  case capture.true =>
    have hne : e' ≠ e := by
      rintro rfl
      exact hno first k done cur rfl
    simpa only [finds, State.entry_setEntry, if_neg hne] using h
  all_goals exact h

/-- No transfer reads an entry that is not READY (R143). -/
theorem no_transfer_of_not_ready (hs : s.historyLaw) (hn : ∀ h, s.entry e = some h → h.stage ≠ .ready) (first : Seq)
    (k done : Nat) (cur : Option Place) : transfer (s.port p) ≠ .capture e true first k done cur := by
  intro hx
  have hf := ((historyLaw_iff s).mp hs).2 p
  rw [hx] at hf
  obtain ⟨h, -, he, -, hready, -⟩ := hf
  exact hn h he hready

/-- What is stored, with an entry replaced by one that fits, in a bank of its own. -/
theorem stored_setEntry (hs : Stored s) {z : Option Held}
    (hz : ∀ h, z = some h → heldFits s h ∧ ∀ e' h', e' ≠ e → s.entry e' = some h' → h.bank ≠ h'.bank) :
    Stored (s.setEntry e z) := by
  have hentry (e' : Fin 4) (h : Held) (he : (s.setEntry e z).entry e' = some h) :
      (e' = e ∧ z = some h) ∨ (e' ≠ e ∧ s.entry e' = some h) := by
    rw [State.entry_setEntry] at he
    split at he
    · next heq => exact .inl ⟨heq, he⟩
    · next hne => exact .inr ⟨hne, he⟩
  refine ⟨hs.items, hs.wf, ringLaw_congr s _ rfl rfl rfl hs.ring, fun p => ?_, fun e' h he => ?_,
    fun e₁ e₂ h₁ h₂ he₁ he₂ hb => ?_⟩
  · rw [State.setEntry_port]; exact cursorFits_congr s _ rfl rfl (hs.cursor p)
  · refine heldFits_congr s _ rfl (fun _ _ _ => rfl) ?_
    obtain ⟨-, hz'⟩ | ⟨-, he'⟩ := hentry e' h he
    · exact (hz h hz').1
    · exact hs.held e' h he'
  · obtain ⟨heq₁, hz₁⟩ | ⟨hne₁, hold₁⟩ := hentry e₁ h₁ he₁ <;>
      obtain ⟨heq₂, hz₂⟩ | ⟨hne₂, hold₂⟩ := hentry e₂ h₂ he₂
    · rw [heq₁, heq₂]
    · exact absurd hb ((hz h₁ hz₁).2 e₂ h₂ hne₂ hold₂)
    · exact absurd hb.symm ((hz h₂ hz₂).2 e₁ h₁ hne₁ hold₁)
    · exact hs.apart e₁ e₂ h₁ h₂ hold₁ hold₂ hb

/-- An entry that no transfer reads replaced by one that fits, in a bank of its own. -/
theorem historyLaw_setEntry (hs : s.historyLaw) {z : Option Held}
    (hno : ∀ p first k done cur, transfer (s.port p) ≠ .capture e true first k done cur)
    (hz : ∀ h, z = some h → heldFits s h ∧ ∀ e' h', e' ≠ e → s.entry e' = some h' → h.bank ≠ h'.bank) :
    (s.setEntry e z).historyLaw := by
  obtain ⟨hst, hfinds⟩ := (historyLaw_iff s).mp hs
  refine (historyLaw_iff _).mpr ⟨stored_setEntry s e hst hz, fun p => ?_⟩
  rw [State.setEntry_port]
  exact finds_setEntry s p e z (hfinds p) (hno p)

/-- The bank of an entry is of no other. -/
theorem bank_apart (hs : s.historyLaw) {h : Held} (he : s.entry e = some h) {e' : Fin 4} {h' : Held} (hne : e' ≠ e)
    (he' : s.entry e' = some h') : h.bank ≠ h'.bank := by
  intro hb
  exact hne (((historyLaw_iff s).mp hs).1.apart e' e h' h he' he hb.symm)

end Sys2Proof.StrokeRing
end

section
/-!
PROOFS. Appends and flushes keep the law of the stroke history (R99 to R101, R104, R108, R113, R114, R117, R140).
-/

namespace Sys2Proof.StrokeRing

open Sys2Proof.Machine Sys2Proof.KindsAndCurves Sys2Proof.ScanEngine

variable (s t : State) (p q : PortId) (e : Fin 4) (time : Time) (body : RecordBody)

/-! ## Entries that fail -/

/-- An entry that is as it was, or FAILED where it was not READY (R129). -/
def failsOnly (a b : Option Held) : Prop :=
  b = a ∨ ∃ h reason, a = some h ∧ h.stage ≠ .ready ∧ b = some { h with stage := .failed reason }

theorem failsOnly_of_overtakenOnly {a b : Option Held} (h : overtakenOnly a b) : failsOnly a b := by
  obtain rfl | ⟨x, hx, hs, hb⟩ := h
  · exact .inl rfl
  · exact .inr ⟨x, .overtaken, hx, by rw [hs]; exact nofun, hb⟩

theorem failsOnly_flushed (a : Option Held) : failsOnly a (a.map (failHeld unfinished .flushed)) := by
  cases a with
  | none => exact .inl rfl
  | some h =>
    cases hu : unfinished h with
    | false => exact .inl (by simp [failHeld, hu])
    | true =>
      refine .inr ⟨h, .flushed, rfl, fun hr => ?_, by simp [failHeld, hu]⟩
      simp [unfinished, hr] at hu

/-- A FAILED entry keeps its fields (R129). -/
theorem heldFits_failed {h : Held} (reason : FailReason) (hf : heldFits s h) :
    heldFits s { h with stage := .failed reason } := by
  obtain ⟨hbank, hwin, -, hreach⟩ := hf
  exact ⟨hbank, hwin, trivial, hreach⟩

/-- The captures keep their law where each is as it was or fails, and its bank reads as before. -/
theorem held_failsOnly (hs : Stored s) (hi : t.items = s.items) (hent : ∀ e, failsOnly (s.entry e) (t.entry e))
    (hread : ∀ b : Fin 8, s.items.isRingBank b = false → ∀ j, j < 512 →
      Store.read t.store (bankAddr b.val j) = Store.read s.store (bankAddr b.val j)) :
    (∀ e h, t.entry e = some h → heldFits t h) ∧ banksApart t := by
  have hback (e : Fin 4) (h : Held) (he : t.entry e = some h) :
      ∃ h₀, s.entry e = some h₀ ∧ h.bank = h₀.bank ∧ heldFits s h := by
    obtain heq | ⟨h₀, reason, he₀, -, heq⟩ := hent e
    · exact ⟨h, heq ▸ he, rfl, hs.held e h (heq ▸ he)⟩
    · rw [heq, Option.some.injEq] at he
      subst he
      exact ⟨h₀, he₀, rfl, heldFits_failed s reason (hs.held e h₀ he₀)⟩
  refine ⟨fun e h he => ?_, fun e₁ e₂ h₁ h₂ he₁ he₂ hb => ?_⟩
  · obtain ⟨-, -, -, hfits⟩ := hback e h he
    exact heldFits_congr s t hi (fun j _ hj => hread h.bank hfits.1 j hj) hfits
  · obtain ⟨x₁, hx₁, hb₁, -⟩ := hback e₁ h₁ he₁
    obtain ⟨x₂, hx₂, hb₂, -⟩ := hback e₂ h₂ he₂
    exact hs.apart e₁ e₂ x₁ x₂ hx₁ hx₂ (by rw [← hb₁, ← hb₂, hb])

/-- A transfer finds what it did where the entries are as they were or fail, and a record being sent is still held unless
next has moved. -/
theorem finds_failsOnly {c c' : Cursor} {x : Xfer} (hent : ∀ e, failsOnly (s.entry e) (t.entry e))
    (hread : ∀ r : Record, (c.moved = false → c.next = r.seq ∧ s.holds r.seq = true) → c'.moved = false →
      c'.next = r.seq ∧ t.holds r.seq = true)
    (h : finds s p c x) : finds t p c' x := by
  rcases x with _ | ⟨k, done, _ | ⟨r⟩ | n⟩ | ⟨e, _ | _, first, k, done, cur⟩
  case read.some.stroke => exact hread r h
  case capture.true =>
    obtain ⟨y, w, he, ho, hready, hrest⟩ := h
    obtain heq | ⟨y', reason, he', hnot, -⟩ := hent e
    · exact ⟨y, w, heq.trans he, ho, hready, hrest⟩
    · rw [he, Option.some.injEq] at he'
      exact absurd hready (he' ▸ hnot)
  all_goals trivial

/-! ## Appends -/

/-- The ring's slots are in the ring banks, so a bank outside them is not written (R98, R101). -/
theorem ringAddr_ne_bankAddr {k j : Nat} {b : Fin 8} (hk : k < s.capacity) (hj : j < 512)
    (hb : s.items.isRingBank b = false) : bankAddr b.val j ≠ s.ringAddr k := by
  have hout : ¬ (s.items.ringBase ≤ b.val ∧ b.val < s.items.ringBase + s.items.ringBanks) := by
    simpa [Items.isRingBank] using hb
  unfold State.capacity bankSlots at hk
  unfold State.ringAddr bankAddr bankSlots
  omega

theorem append_ringLaw (hf : ringFits s) (h : s.ringLaw) : (s.append time body).ringLaw := by
  have hcount := append_count s time body hf
  have hholds := append_holds_iff s time body hf
  obtain ⟨hc, hw, -⟩ := id hf
  refine (ringLaw_iff _).mpr ⟨?_, append_writePos_lt s time body hw, fun n hn => ?_⟩
  · rw [hcount, append_capacity]
    split <;> omega
  · obtain rfl | ⟨hold, hno⟩ := (hholds n).mp hn
    · rw [append_ringRead_w s time body hw hn]
      rfl
    · rw [append_ringRead_held s time body hf hold hno]
      exact ((ringLaw_iff s).mp h).2.2 n hold

/-- A lap leaves a cursor that stood at `old` one further on, and moved; it leaves every other (R114). -/
theorem lappedPort_cursor (old : Seq) (x : Port) :
    ((lappedPort old x).cursor = x.cursor ∧ x.cursor.next ≠ old)
    ∨ ∃ skipped, (lappedPort old x).cursor = { x.cursor with next := old + 1, skipped := skipped, moved := true }
        ∧ x.cursor.next = old ∧ (x.cursor.skipped ≤ 65535 → skipped ≤ 65535) := by
  by_cases h : x.cursor.next = old
  · refine .inr ?_
    cases hm : x.cursor.mode with
    | sequential =>
      rw [lappedPort_sequential h hm]
      exact ⟨_, rfl, h, fun _ => Nat.min_le_right _ _⟩
    | latest =>
      rw [lappedPort_latest h hm]
      exact ⟨_, rfl, h, id⟩
  · exact .inl ⟨by rw [lappedPort_of_ne h], h⟩

/-- The cursor of a port after an append: as it was, or lapped at the O of a full ring. -/
theorem append_cursor :
    (((s.append time body).port q).cursor = (s.port q).cursor ∧ (s.count < s.capacity ∨ (s.port q).cursor.next ≠ s.ring.o))
    ∨ ¬ s.count < s.capacity ∧ (s.port q).cursor.next = s.ring.o
      ∧ ∃ skipped, ((s.append time body).port q).cursor
          = { (s.port q).cursor with next := s.ring.o + 1, skipped := skipped, moved := true }
        ∧ ((s.port q).cursor.skipped ≤ 65535 → skipped ≤ 65535) := by
  by_cases hc : s.count < s.capacity
  · obtain ⟨h0, h1, -⟩ := s.append_room time body hc
    exact .inl ⟨by cases q <;> simp [h0, h1], .inl hc⟩
  · obtain ⟨_, -, hport⟩ := append_full_port s q time body hc
    rw [hport]
    obtain ⟨hcur, hne⟩ | ⟨skipped, hcur, heq, hsk⟩ := lappedPort_cursor s.ring.o (s.port q)
    · exact .inl ⟨hcur, .inr hne⟩
    · exact .inr ⟨hc, heq, skipped, hcur, hsk⟩

theorem append_cursorFits (hf : ringFits s) (h : cursorFits s (s.port q).cursor) :
    cursorFits (s.append time body) ((s.append time body).port q).cursor := by
  have hcount := append_count s time body hf
  obtain ⟨hc, hw, hcap⟩ := hf
  obtain ⟨hlag, hready, hready', hmargin, hskipped⟩ := h
  have hw1 : (s.append time body).ring.w = s.ring.w + 1 := by rw [State.append_ring]
  have hlag1 := seqDist_succ_right (a := (s.port q).cursor.next) (b := s.ring.w) (by omega)
  obtain ⟨hcur, hor⟩ | ⟨hfull, -, skipped, hcur, hsk⟩ := append_cursor s q time body
  · rw [hcur]
    refine ⟨?_, hready, by rwa [append_capacity], by rwa [append_capacity], hskipped⟩
    rw [hw1, hlag1, hcount]
    split
    · omega
    · next hfull =>
      have hne : (s.port q).cursor.next ≠ s.ring.o := hor.resolve_left hfull
      have hlt : seqDist (s.port q).cursor.next s.ring.w ≠ s.count := by
        intro heq
        refine hne ?_
        unfold State.count seqDist at heq
        bv_omega
      omega
  · rw [hcur]
    refine ⟨?_, hready, by rwa [append_capacity], by rwa [append_capacity], hsk hskipped⟩
    have ho1 : seqDist (s.ring.o + 1) (s.ring.w + 1) = s.count := by
      unfold State.count seqDist
      bv_omega
    rw [hw1, hcount, if_neg hfull]
    exact le_of_eq ho1

theorem append_sameFraming : sameFraming (s.port q) ((s.append time body).port q) :=
  sameFraming_of_portAppended (append_portLapped s q time body).2

theorem historyLaw_append (hs : s.historyLaw) : (s.append time body).historyLaw := by
  have hf := ringFits_of_historyLaw s hs
  obtain ⟨hst, hfinds⟩ := (historyLaw_iff s).mp hs
  have hent (e : Fin 4) := failsOnly_of_overtakenOnly (append_overtakenOnly s time body e)
  obtain ⟨hheld, hapart⟩ := held_failsOnly s (s.append time body) hst (by simp) hent fun b hb j hj => by
    rw [State.append_store, Store.read_write_other _ _ _ _ (ringAddr_ne_bankAddr s hf.2.1 hj hb)]
  refine (historyLaw_iff _).mpr ⟨⟨by simpa using hst.items, s.append_wf time body hst.wf,
    append_ringLaw s time body hf hst.ring, fun q => append_cursorFits s q time body hf (hst.cursor q), hheld, hapart⟩,
    fun q => ?_⟩
  rw [transfer_of_sameFraming (append_sameFraming s q time body)]
  refine finds_failsOnly s _ q hent (fun r hr hmoved => ?_) (hfinds q)
  obtain ⟨hcur, hor⟩ | ⟨-, -, skipped, hcur, -⟩ := append_cursor s q time body
  · rw [hcur] at hmoved ⊢
    obtain ⟨hnext, hheld⟩ := hr hmoved
    refine ⟨hnext, (append_holds_iff s time body hf _).mpr (.inr ⟨hheld, ?_⟩)⟩
    rintro ⟨hfull, ho⟩
    obtain hlt | hne := hor
    · omega
    · exact hne (hnext.trans ho)
  · rw [hcur] at hmoved
    cases hmoved

/-! ## Flushes -/

theorem flushRing_transfer : transfer (s.flushRing.port q) = transfer (s.port q) :=
  transfer_of_sameFraming (flushRing_sameFraming s q)

/-- A ring that is empty has its law. -/
theorem ringLaw_of_empty (hz : s.count = 0) (hw : s.ring.writePos < s.capacity) : s.ringLaw :=
  ⟨by omega, hw, fun j hj => by omega⟩

theorem historyLaw_flushRing (hs : s.historyLaw) : s.flushRing.historyLaw := by
  obtain ⟨-, hw, -⟩ := ringFits_of_historyLaw s hs
  obtain ⟨hst, hfinds⟩ := (historyLaw_iff s).mp hs
  have hent (e : Fin 4) : failsOnly (s.entry e) (s.flushRing.entry e) := by
    rw [flushRing_entry]
    exact failsOnly_flushed _
  have hcap : s.flushRing.capacity = s.capacity := by simp [State.capacity]
  obtain ⟨hheld, hapart⟩ := held_failsOnly s s.flushRing hst (by simp) hent fun b _ j _ => by simp
  refine (historyLaw_iff _).mpr ⟨⟨by simpa using hst.items, by simpa using hst.wf, ?_, fun q => ?_, hheld, hapart⟩,
    fun q => ?_⟩
  · exact ringLaw_of_empty _ (flushRing_count s) (by rw [hcap]; simpa using hw)
  · obtain ⟨-, hthresholds⟩ := hst.cursor q
    rw [flushRing_cursor]
    refine ⟨by simp [seqDist_self], ?_⟩
    rwa [hcap]
  · rw [flushRing_transfer, flushRing_cursor]
    exact finds_failsOnly s _ q hent (fun _ _ hmoved => by cases hmoved) (hfinds q)

end Sys2Proof.StrokeRing
end

section
/-!
PROOFS. The captures keep the law of the stroke history: triggers, copies, readout and release (R129 to R133, R137 to R144).
-/

namespace Sys2Proof.StrokeRing

open Sys2Proof.Machine Sys2Proof.KindsAndCurves Sys2Proof.ScanEngine

variable (s t : State) (p q : PortId) (e : Fin 4) (h : Held)

/-! ## Conditions raised, and entries replaced -/

theorem sameHistory_raise (c : Cond) : SameHistory s (s.raise p c) := sameHistory_setPort s p rfl rfl

theorem sameHistory_raiseBoth (c : Cond) : SameHistory s (s.raiseBoth c) :=
  sameHistory_trans (sameHistory_raise s .p0 c) (sameHistory_raise _ .p1 c)

/-- An entry that is not READY replaced by one that fits in the same bank. -/
theorem historyLaw_setEntry_bank (hs : s.historyLaw) (he : s.entry e = some h) (hn : h.stage ≠ .ready) {x : Held}
    (hb : x.bank = h.bank) (hx : heldFits s x) : (s.setEntry e (some x)).historyLaw := by
  refine historyLaw_setEntry s e hs (fun p => no_transfer_of_not_ready s p e hs fun y hy => ?_) fun y hy => ?_
  · rw [he] at hy
    cases hy
    exact hn
  · cases hy
    exact ⟨hx, fun e' h' hne he' => hb ▸ bank_apart s e hs he hne he'⟩

theorem heldFits_of_entry (hs : s.historyLaw) (he : s.entry e = some h) : heldFits s h :=
  ((historyLaw_iff s).mp hs).1.held e h he

theorem historyLaw_failEntry (hs : s.historyLaw) (he : s.entry e = some h) (hn : h.stage ≠ .ready) (reason : FailReason) :
    (s.failEntry e h reason).historyLaw :=
  historyLaw_same (sameHistory_raise _ _ _)
    (historyLaw_setEntry_bank s e h hs he hn rfl (heldFits_failed s reason (heldFits_of_entry s e h hs he)))

/-! ## Triggers (R132, R133) -/

/-- The window of a relative entry has at most the look-back and the look-ahead (R133). -/
theorem window_target_le (hf : ringFits s) {back ahead : Nat} (hb : back ≤ 511) :
    (s.window back ahead).target ≤ back + ahead := by
  obtain ⟨hc, -, hcap⟩ := hf
  simp only [State.window]
  refine Nat.add_le_add_right ?_ _
  split
  · next hshort =>
    obtain ⟨hle, -⟩ : seqDist (s.ring.w - BitVec.ofNat 32 back) s.ring.o ≤ s.capacity
        ∧ s.ring.w - BitVec.ofNat 32 back ≠ s.ring.o := by
      simpa [State.older, State.atOrBefore] using hshort
    change s.count ≤ back
    unfold State.count seqDist at *
    bv_omega
  · unfold seqDist
    bv_omega

/-- A relative entry as it triggers, FILLING or with an empty window READY, fits where its bank does (R132). -/
theorem heldFits_triggered (hf : ringFits s) (hbank : s.items.isRingBank h.bank = false) (hreach : h.reachLaw)
    {back ahead : Nat} (hr : h.reach = some (back, ahead)) {stage : CapStage}
    (hstage : ((s.window back ahead).target = 0 ∧ stage = .ready) ∨ ((s.window back ahead).target ≠ 0 ∧ stage = .filling)) :
    heldFits s { h with stage := stage, window := some (s.window back ahead), copied := 0, readPos := 0 } := by
  obtain ⟨hb, -, -, hsum⟩ := hreach _ hr
  have htarget : (s.window back ahead).target ≤ 512 := (window_target_le s hf hb).trans hsum
  refine ⟨hbank, ⟨htarget, Nat.zero_le _, le_refl 0, fun j hj => absurd hj (Nat.not_lt_zero j)⟩, ?_, hreach⟩
  obtain ⟨hz, rfl⟩ | ⟨hz, rfl⟩ := hstage
  · exact ⟨_, rfl, hz.symm⟩
  · exact ⟨_, rfl, Nat.pos_of_ne_zero hz, rfl⟩

/-- An entry triggers where no transfer reads it and its bank is its own. -/
theorem historyLaw_triggerHeld (hs : s.historyLaw)
    (hno : ∀ p first k done cur, transfer (s.port p) ≠ .capture e true first k done cur)
    (hbank : s.items.isRingBank h.bank = false) (hreach : h.reachLaw)
    (hown : ∀ e' h', e' ≠ e → s.entry e' = some h' → h.bank ≠ h'.bank) : (s.triggerHeld e h).historyLaw := by
  cases hr : h.reach with
  | none => simpa only [State.triggerHeld, hr] using hs
  | some r =>
    obtain ⟨back, ahead⟩ := r
    have hfits {stage : CapStage} := heldFits_triggered s h (ringFits_of_historyLaw s hs) hbank hreach hr (stage := stage)
    have hset {stage : CapStage} (hstage : ((s.window back ahead).target = 0 ∧ stage = .ready)
        ∨ ((s.window back ahead).target ≠ 0 ∧ stage = .filling)) :
        (s.setEntry e (some { h with
          stage := stage, window := some (s.window back ahead), copied := 0, readPos := 0 })).historyLaw := by
      refine historyLaw_setEntry s e hs hno fun x hx => ?_
      cases hx
      exact ⟨hfits hstage, hown⟩
    obtain ⟨hz, heq⟩ | ⟨hz, heq⟩ := s.triggerHeld_cases e h back ahead hr <;> rw [heq]
    · exact historyLaw_same (sameHistory_raise _ _ _) (hset (.inl ⟨hz, rfl⟩))
    · exact hset (.inr ⟨hz, rfl⟩)

theorem historyLaw_triggerArmed (hs : s.historyLaw) (g : Trigger) : (State.triggerArmed g e s).historyLaw := by
  unfold State.triggerArmed
  cases he : s.entry e with
  | none => exact hs
  | some h =>
    dsimp only
    split
    · next harmed =>
      have hn : h.stage ≠ .ready := by rw [harmed.1]; exact nofun
      obtain ⟨hbank, -, -, hreach⟩ := heldFits_of_entry s e h hs he
      refine historyLaw_triggerHeld s e h hs (fun p => no_transfer_of_not_ready s p e hs fun x hx => ?_) hbank hreach
        fun e' h' hne he' => bank_apart s e hs he hne he'
      rw [he] at hx
      cases hx
      exact hn
    · exact hs

theorem historyLaw_forEntries {f : Fin 4 → State → State} (hf : ∀ e u, u.historyLaw → (f e u).historyLaw)
    (hs : s.historyLaw) : (s.forEntries f).historyLaw :=
  hf 3 _ (hf 2 _ (hf 1 _ (hf 0 _ hs)))

theorem historyLaw_triggers (g : Trigger) (hs : s.historyLaw) : (s.forEntries (State.triggerArmed g)).historyLaw :=
  historyLaw_forEntries s (fun e u hu => historyLaw_triggerArmed u e hu g) hs

/-! ## CAPTURE (R130, R131, R137) -/

theorem freeEntry_empty (hf : s.freeEntry = some e) : s.entry e = none := by
  simpa using List.find?_some hf

theorem freeBank_free {bank : Fin 8} (hf : s.freeBank = some bank) :
    s.items.isRingBank bank = false ∧ ∀ e h, s.entry e = some h → bank ≠ h.bank := by
  obtain ⟨hring, hheld⟩ : s.items.isRingBank bank = false ∧ s.bankHeld bank = false := by
    simpa using List.find?_some hf
  refine ⟨hring, fun e h he hb => ?_⟩
  have hyes : s.bankHeld bank = true := by
    refine List.any_eq_true.mpr ⟨some h, ?_, by simp [hb]⟩
    rw [entries_toList, ← he]
    fin_cases e <;> simp
  rw [hheld] at hyes
  cases hyes

/-- A look-back and look-ahead that CAPTURE accepts (R131). -/
theorem armedEntry_reachLaw {g : Trigger} {first : Word} {second : Half} {drive : Byte} {bank : Fin 8}
    (hg : g ≠ .absolute) (ht : s.captureTest (some g) first second drive = none) :
    (armedEntry p g first second bank).reachLaw := by
  simp only [State.captureTest, if_neg hg] at ht
  have hrange : ¬ (511 < first.toNat ∨ 511 < second.toNat ∨ first.toNat + second.toNat < 1
      ∨ 512 < first.toNat + second.toNat) := by
    split at ht
    · cases ht
    · simpa using ht
  intro r hr
  cases hr
  dsimp only
  omega

theorem historyLaw_startCapture (hs : s.historyLaw) {g : Trigger} {first : Word} {second : Half} {drive : Byte}
    {bank : Fin 8} (ht : s.captureTest (some g) first second drive = none) (he : s.freeEntry = some e)
    (hb : s.freeBank = some bank) : (s.startCapture p g first second drive e bank).historyLaw := by
  have hempty := freeEntry_empty s e he
  obtain ⟨hring, hown⟩ := freeBank_free s hb
  have hno (p : PortId) := no_transfer_of_not_ready s p e hs fun h hh => by rw [hempty] at hh; cases hh
  have hset (x : Held) (hx : heldFits s x) (hxb : x.bank = bank) : (s.setEntry e (some x)).historyLaw := by
    refine historyLaw_setEntry s e hs hno fun y hy => ?_
    cases hy
    exact ⟨hx, fun e' h' _ he' => hxb ▸ hown e' h' he'⟩
  have harmed (hg : g ≠ .absolute) : (s.setEntry e (some (armedEntry p g first second bank))).historyLaw :=
    hset _ ⟨hring, ⟨rfl, rfl⟩, ⟨rfl, rfl⟩, armedEntry_reachLaw s p hg ht⟩ rfl
  cases g with
  | immediate =>
    exact historyLaw_triggerHeld s e _ hs hno hring (armedEntry_reachLaw s p nofun ht) fun e' h' _ he' => hown e' h' he'
  | contact => exact harmed nofun
  | sync =>
    unfold State.startCapture
    dsimp only
    split
    · exact historyLaw_same (sameHistory_of_eq _ _ rfl rfl rfl rfl rfl rfl) (harmed nofun)
    · exact harmed nofun
  | absolute =>
    have hcount : 1 ≤ second.toNat ∧ second.toNat ≤ 512 := by
      simp only [State.captureTest, if_true] at ht
      split at ht
      · cases ht
      · split at ht
        · cases ht
        · omega
    refine hset (absoluteEntry p first second bank) ⟨hring, ?_, ?_, fun _ hr => by cases hr⟩ rfl
    · exact ⟨hcount.2, Nat.zero_le _, le_refl 0, fun j hj => absurd hj (Nat.not_lt_zero j)⟩
    · exact ⟨_, rfl, hcount.1, rfl⟩

theorem historyLaw_answerCapture (hs : s.historyLaw) (trigger : Byte) (first : Word) (second : Half) (drive : Byte) :
    (s.answerCapture p trigger first second drive).state.historyLaw := by
  unfold State.answerCapture
  split
  · exact hs
  · exact hs
  · next g ht hg =>
    split
    · next e bank he hb => exact historyLaw_startCapture s p e hs (hg ▸ ht) he hb
    · exact hs

/-! ## Copies (R138 to R140) -/

/-- A record written outside the ring and beside all copies changes nothing the law reads. -/
theorem historyLaw_write (hs : s.historyLaw) (a : Nat) (r : Record) (hring : ∀ k, k < s.capacity → s.ringAddr k ≠ a)
    (hcopies : ∀ e h, s.entry e = some h → ∀ j, j < h.copied → j < 512 → bankAddr h.bank.val j ≠ a) :
    ({ s with store := Store.write s.store a r } : State).historyLaw := by
  obtain ⟨hst, hfinds⟩ := (historyLaw_iff s).mp hs
  let u : State := { s with store := Store.write s.store a r }
  have hport (p : PortId) : u.port p = s.port p := by cases p <;> rfl
  obtain ⟨hle, hw, hread⟩ := (ringLaw_iff s).mp hst.ring
  refine (historyLaw_iff u).mpr ⟨⟨hst.items, Store.write_wf _ _ _ hst.wf, ?_, fun p => ?_, fun e h he => ?_, hst.apart⟩,
    fun p => ?_⟩
  · refine (ringLaw_iff u).mpr ⟨hle, hw, fun n hn => ?_⟩
    have hsame : u.ringRead n = s.ringRead n := by
      have hn' : s.holds n = true := hn
      rw [State.ringRead, if_pos hn, State.ringRead, if_pos hn']
      exact Store.read_write_other _ _ _ _ (hring _ (ringSlot_lt s hw))
    rw [hsame]
    exact hread n hn
  · rw [hport]
    exact cursorFits_congr s u rfl rfl (hst.cursor p)
  · exact heldFits_congr s u rfl (fun j hj hj' => Store.read_write_other _ _ _ _ (hcopies e h he j hj hj')) (hst.held e h he)
  · rw [hport]
    exact finds_congr s u p rfl rfl (hfinds p)

/-- Two slots of banks that differ, or two slots of a bank. -/
theorem bankAddr_ne {b b' j j' : Nat} (hj : j < 512) (hj' : j' < 512) (hne : b ≠ b' ∨ j ≠ j') :
    bankAddr b j ≠ bankAddr b' j' := by
  unfold bankAddr bankSlots
  omega

/-- The next record of a FILLING entry written into the next slot of its bank. -/
theorem historyLaw_copyWritten (hs : s.historyLaw) (he : s.entry e = some h) (hj : h.copied < 512) (r : Record) :
    ({ s with store := Store.write s.store (bankAddr h.bank.val h.copied) r } : State).historyLaw := by
  obtain ⟨hbank, -⟩ := heldFits_of_entry s e h hs he
  refine historyLaw_write s hs _ r (fun k hk => (ringAddr_ne_bankAddr s hk hj hbank).symm) fun e' h' he' j hjc hj' => ?_
  refine bankAddr_ne hj' hj ?_
  by_cases hee : e' = e
  · subst hee
    rw [he] at he'
    cases he'
    exact .inr (by omega)
  · exact .inl fun hb => bank_apart s e hs he hee he' (Fin.ext hb.symm)

/-- The entry of a FILLING capture after its next record has been copied, READY at the last (R138). -/
theorem heldFits_copied {w : Window} {r : Record} (hf : heldFits s h) (hw : h.window = some w) (hlt : h.copied < w.target)
    (hr : r.seq = w.start + BitVec.ofNat 32 h.copied)
    (hread : Store.read s.store (bankAddr h.bank.val h.copied) = some r) {stage : CapStage}
    (hstage : (h.copied + 1 = w.target ∧ stage = .ready) ∨ (h.copied + 1 ≠ w.target ∧ stage = .filling)) :
    heldFits s { h with stage := stage, copied := h.copied + 1, readPos := 0 } := by
  obtain ⟨hbank, hwin, -, hreach⟩ := hf
  simp only [State.windowLaw, hw] at hwin
  obtain ⟨htarget, -, -, hcopies⟩ := hwin
  refine ⟨hbank, ?_, ?_, hreach⟩
  · simp only [State.windowLaw, hw]
    refine ⟨htarget, hlt, Nat.zero_le _, fun j hj => ?_⟩
    obtain hlt' | rfl := Nat.lt_succ_iff_lt_or_eq.mp hj
    · exact hcopies j hlt'
    · simp [hread, hr]
  · obtain ⟨heq, rfl⟩ | ⟨hne, rfl⟩ := hstage
    · exact ⟨w, hw, heq⟩
    · exact ⟨w, hw, by dsimp only; omega, rfl⟩

theorem historyLaw_captureCopy (hs : s.historyLaw) : (s.captureCopy e).historyLaw := by
  obtain heq | ⟨h, w, he, hfill, hw, ⟨r, hr, heq⟩ | ⟨-, heq⟩⟩ := s.captureCopy_cases e <;> rw [heq]
  · exact hs
  · have hn : h.stage ≠ .ready := by rw [hfill]; exact nofun
    have hfits := heldFits_of_entry s e h hs he
    obtain ⟨-, hwin, hstage, -⟩ := id hfits
    simp only [Held.stageLaw, hfill, hw, Option.some.injEq, exists_eq_left'] at hstage
    obtain ⟨hlt, hpos⟩ := hstage
    simp only [State.windowLaw, hw] at hwin
    obtain ⟨htarget, -⟩ := hwin
    obtain ⟨-, hseq⟩ := seq_of_ringRead s ((historyLaw_iff s).mp hs).1.ring hr
    let u : State := { s with store := Store.write s.store (bankAddr h.bank.val h.copied) r }
    have hu : u.historyLaw := historyLaw_copyWritten s e h hs he (by omega) r
    have hread : Store.read u.store (bankAddr h.bank.val h.copied) = some r := Store.read_write_same _ _ _
    have hcopied {stage : CapStage} := heldFits_copied u h (heldFits_of_entry u e h hu he) hw hlt hseq hread
      (stage := stage)
    change (u.afterCopy e h w.target).historyLaw
    unfold State.afterCopy
    split
    · next hlast =>
      exact historyLaw_same (sameHistory_raise _ _ _)
        (historyLaw_setEntry_bank u e h hu he hn rfl (hcopied (.inl ⟨hlast, rfl⟩)))
    · next hmore =>
      have hx := hcopied (.inr ⟨hmore, rfl⟩)
      rw [← hfill, ← hpos] at hx
      exact historyLaw_setEntry_bank u e h hu he hn rfl hx
  · exact historyLaw_failEntry s e h hs he (by rw [hfill]; exact nofun) .overtaken

end Sys2Proof.StrokeRing
end

section
/-!
PROOFS. Requests, the places of READ and CAPTURE READ, and releases keep the law of the stroke history; and so does what falls
together with an append (R109, R115 to R125, R142 to R145).
-/

namespace Sys2Proof.StrokeRing

open Sys2Proof.Machine Sys2Proof.KindsAndCurves Sys2Proof.ScanEngine

variable (s t : State) (p q : PortId) (e : Fin 4) (h : Held)

theorem cursorFits_port (hs : s.historyLaw) : cursorFits s (s.port p).cursor := ((historyLaw_iff s).mp hs).1.cursor p

theorem finds_port (hs : s.historyLaw) : finds s p (s.port p).cursor (transfer (s.port p)) := ((historyLaw_iff s).mp hs).2 p

/-- The framing of a port replaced, where its new transfer finds what it sends. -/
theorem historyLaw_setFraming (hs : s.historyLaw) {x : Port} (hc : x.cursor = (s.port p).cursor)
    (hx : finds s p (s.port p).cursor (transfer x)) : (s.setPort p x).historyLaw :=
  historyLaw_setPort s p hs (hc ▸ cursorFits_port s p hs) (hc ▸ hx)

/-- A request keeps the law where its effect does and its response finds what it sends. -/
theorem historyLaw_onRequest {f : State → Answer} (hs : s.historyLaw)
    (hf : s.receiving p = true → (f s).state.historyLaw
      ∧ finds (f s).state p ((f s).state.port p).cursor (f s).xfer) : (s.onRequest p f).historyLaw := by
  cases hr : s.receiving p with
  | false => rwa [State.onRequest_not_receiving s p f hr]
  | true =>
    obtain ⟨hstate, hfinds⟩ := hf hr
    rw [State.onRequest_receiving s p f hr]
    exact historyLaw_setFraming _ p hstate rfl hfinds

/-- A request whose response fills no place. -/
theorem historyLaw_onRequest_plain {f : State → Answer} (hs : s.historyLaw) (hx : (f s).xfer = .none)
    (hf : s.receiving p = true → (f s).state.historyLaw) : (s.onRequest p f).historyLaw := by
  refine historyLaw_onRequest s p hs fun hr => ⟨hf hr, ?_⟩
  rw [hx]
  trivial

/-! ## Requests of the ring and of a cursor (R115 to R125) -/

/-- A cursor at W fits. -/
theorem cursorFits_at_w {c : Cursor} (hc : cursorFits s c) (mark : Option Seq) (skipped : Nat) (hsk : skipped ≤ 65535)
    (moved : Bool) : cursorFits s { c with next := s.ring.w, mark := mark, skipped := skipped, moved := moved } := by
  obtain ⟨-, hready, hready', hmargin, -⟩ := hc
  exact ⟨by rw [seqDist_self]; exact Nat.zero_le _, hready, hready', hmargin, hsk⟩

/-- A cursor with its skipped set to 0 fits as before (R115). -/
theorem cursorFits_unskipped {c : Cursor} (hc : cursorFits s c) : cursorFits s { c with skipped := 0 } := by
  obtain ⟨hlag, hready, hready', hmargin, -⟩ := hc
  exact ⟨hlag, hready, hready', hmargin, Nat.zero_le _⟩

theorem historyLaw_answerRead (hs : s.historyLaw) (hr : s.receiving p = true) (n : Byte) :
    (s.answerRead p n).state.historyLaw
    ∧ finds (s.answerRead p n).state p ((s.answerRead p n).state.port p).cursor (s.answerRead p n).xfer := by
  have hnone := transfer_of_receiving s p hr
  have hc := cursorFits_port s p hs
  unfold State.answerRead
  dsimp only
  split
  · exact ⟨historyLaw_setCursor s p hs hnone (cursorFits_unskipped s hc), trivial⟩
  · exact ⟨historyLaw_setCursor s p hs hnone (cursorFits_at_w s hc _ 0 (Nat.zero_le _) _), trivial⟩

theorem historyLaw_answerRewind (hs : s.historyLaw) (hr : s.receiving p = true) : (s.answerRewind p).state.historyLaw := by
  have hnone := transfer_of_receiving s p hr
  obtain ⟨-, hready, hready', hmargin, hskipped⟩ := cursorFits_port s p hs
  unfold State.answerRewind
  dsimp only
  split
  · exact hs
  · split
    · next hd => exact historyLaw_setCursor s p hs hnone ⟨hd, hready, hready', hmargin, hskipped⟩
    · exact historyLaw_setCursor s p hs hnone ⟨le_refl s.count, hready, hready', hmargin, Nat.min_le_right _ _⟩

theorem historyLaw_answerCursorSetup (hs : s.historyLaw) (hr : s.receiving p = true) (mode : Byte) (ready margin : Half) :
    (s.answerCursorSetup p mode ready margin).state.historyLaw := by
  have hnone := transfer_of_receiving s p hr
  obtain ⟨hlag, hready, hready', -, hskipped⟩ := cursorFits_port s p hs
  have hclamp : 1 ≤ clampNat 1 s.capacity ready.toNat ∧ clampNat 1 s.capacity ready.toNat ≤ s.capacity
      ∧ clampNat 0 (s.capacity - 1) margin.toNat < s.capacity := by
    unfold clampNat
    omega
  unfold State.answerCursorSetup
  split
  · exact hs
  · exact historyLaw_setCursor s p hs hnone ⟨hlag, hclamp.1, hclamp.2.1, hclamp.2.2, hskipped⟩

theorem historyLaw_ringRequest {i : Instr} {f : State → Answer} (hi : ringRequest i = some (p, f)) (hs : s.historyLaw) :
    (s.onRequest p f).historyLaw := by
  cases i with
  | read p n =>
    cases hi
    exact historyLaw_onRequest s p hs fun hr => historyLaw_answerRead s p hs hr n
  | mark p =>
    cases hi
    refine historyLaw_onRequest_plain s p hs rfl fun hr => ?_
    exact historyLaw_setCursor s p hs (transfer_of_receiving s p hr) (cursorFits_port s p hs)
  | rewind p =>
    cases hi
    refine historyLaw_onRequest_plain s p hs ?_ fun hr => historyLaw_answerRewind s p hs hr
    unfold State.answerRewind
    dsimp only
    repeat' split
    all_goals rfl
  | cursorSetup p mode ready margin =>
    cases hi
    refine historyLaw_onRequest_plain s p hs ?_ fun hr => historyLaw_answerCursorSetup s p hs hr mode ready margin
    unfold State.answerCursorSetup
    split <;> rfl
  | flush p =>
    cases hi
    exact historyLaw_onRequest_plain s p hs rfl fun _ => historyLaw_flushRing s hs
  | _ => cases hi

/-! ## The places of a READ (R117, R118) -/

theorem readPlaceBegin_eq :
    s.readPlaceBegin p = s
    ∨ ∃ left resp k done, (s.port p).framing = .response left resp
        ∧ s.readPlaceBegin p = s.setPort p { s.port p with
            cursor := { (s.port p).cursor with moved := false }
            framing := .response left
              { resp with outBits := resp.placeStart done, xfer := .read k done (some (s.readPlace p)) } } := by
  obtain h | ⟨left, resp, k, done, hf, hx, hk, -⟩ := s.readPlaceBegin_cases p
  · exact .inl h
  · exact .inr ⟨left, resp, k, done, hf, readPlaceBegin_due s p hf hx hk⟩

theorem readRecordComplete_eq :
    s.readRecordComplete p = s
    ∨ ∃ left resp k done pl, (s.port p).framing = .response left resp ∧ resp.xfer = .read k done (some pl)
        ∧ s.readRecordComplete p = s.setPort p { s.port p with
            cursor := (s.port p).cursor.sent pl
            framing := .response transactionTime
              { resp with outBits := resp.placeStart (done + 1), xfer := .read k (done + 1) none } } := by
  obtain h | ⟨left, resp, k, done, pl, hf, hx, -⟩ := s.readRecordComplete_cases p
  · exact .inl h
  · exact .inr ⟨left, resp, k, done, pl, hf, hx, readRecordComplete_sent s p hf hx⟩

theorem historyLaw_readPlaceBegin (hs : s.historyLaw) : (s.readPlaceBegin p).historyLaw := by
  obtain heq | ⟨left, resp, k, done, hf, heq⟩ := readPlaceBegin_eq s p <;> rw [heq]
  · exact hs
  · refine historyLaw_setPort s p hs (cursorFits_port s p hs) ?_
    change finds s p _ (.read k done (some (s.readPlace p)))
    rw [readPlace_eq]
    cases hr : s.ringRead (s.port p).cursor.next with
    | none => trivial
    | some r =>
      obtain ⟨hheld, hseq⟩ := seq_of_ringRead s ((historyLaw_iff s).mp hs).1.ring hr
      exact fun _ => ⟨hseq.symm, hseq.symm ▸ hheld⟩

/-- A cursor that has sent the record it stands at still lies within O..W (R117). -/
theorem cursorFits_sent {c : Cursor} (hc : cursorFits s c) {k done : Nat} {pl : Place}
    (hx : finds s p c (.read k done (some pl))) : cursorFits s (c.sent pl) := by
  cases pl with
  | void n => exact hc
  | stroke r =>
    unfold Cursor.sent
    dsimp only
    split
    · next hsent =>
      obtain ⟨hlag, hrest⟩ := hc
      obtain ⟨hnext, hheld⟩ := hx hsent.2
      rw [← hnext] at hheld
      obtain ⟨hpos, hle⟩ := seqDist_of_holds s hheld
      refine ⟨?_, hrest⟩
      have hne : c.next ≠ s.ring.w := fun h => by rw [h, seqDist_self] at hpos; omega
      have hstep := seqDist_succ_left hne
      dsimp only
      omega
    · exact hc

theorem historyLaw_readRecordComplete (hs : s.historyLaw) : (s.readRecordComplete p).historyLaw := by
  obtain heq | ⟨left, resp, k, done, pl, hf, hx, heq⟩ := readRecordComplete_eq s p <;> rw [heq]
  · exact hs
  · have hfinds := finds_port s p hs
    rw [transfer_of_response hf, hx] at hfinds
    exact historyLaw_setPort s p hs (cursorFits_sent s p (cursorFits_port s p hs) hfinds) trivial

/-! ## CAPTURE READ and its places (R142, R143) -/

/-- A port that does not own an entry does not read it (R143). -/
theorem no_transfer_of_owner (hs : s.historyLaw) (he : s.entry e = some h) (hq : q ≠ h.owner) (first : Seq) (k done : Nat)
    (cur : Option Place) : transfer (s.port q) ≠ .capture e true first k done cur := by
  intro hx
  have hf := finds_port s q hs
  rw [hx] at hf
  obtain ⟨y, -, hy, ho, -⟩ := hf
  rw [he] at hy
  cases hy
  exact hq ho.symm

/-- The read position of an entry moved within its copies fits (R129). -/
theorem heldFits_readPos (hf : heldFits s h) (hready : h.stage = .ready) {pos : Nat} (hpos : pos ≤ h.copied) :
    heldFits s { h with readPos := pos } := by
  obtain ⟨hbank, hwin, hstage, hreach⟩ := hf
  simp only [Held.stageLaw, hready] at hstage
  obtain ⟨w, hw, hcopied⟩ := hstage
  simp only [State.windowLaw, hw] at hwin
  obtain ⟨htarget, hle, -, hcopies⟩ := hwin
  refine ⟨hbank, ?_, ?_, hreach⟩
  · simp only [State.windowLaw, hw]
    exact ⟨htarget, hle, hpos, hcopies⟩
  · simp only [Held.stageLaw, hready]
    exact ⟨w, hw, hcopied⟩

/-- A CAPTURE READ is refused, or moves the read position of a READY entry of its port within its copies and sends at most what
is left of the window from there (R142). -/
theorem answerCaptureRead_cases (entry n fromStart : Byte) :
    (∃ rc, s.answerCaptureRead p entry n fromStart = { state := s, reply := captureReadReply rc 0 })
    ∨ ∃ e h pos k reply, s.entry e = some h ∧ h.owner = p ∧ h.stage = .ready ∧ pos ≤ h.readPos
        ∧ k ≤ h.targetShown - pos
        ∧ s.answerCaptureRead p entry n fromStart
          = { state := s.setEntry e (some { h with readPos := pos }), reply := reply
              xfer := .capture e true (h.startShown + BitVec.ofNat 32 pos) k 0 none } := by
  unfold State.answerCaptureRead
  dsimp only
  split
  · exact .inl ⟨_, rfl⟩
  · split
    · exact .inl ⟨_, rfl⟩
    · split
      · exact .inl ⟨_, rfl⟩
      · next h he =>
        split
        · exact .inl ⟨_, rfl⟩
        · next howner =>
          split
          · exact .inl ⟨_, rfl⟩
          · next hstage =>
            refine .inr ⟨_, h, if fromStart = 1 then 0 else h.readPos, _, _, he, not_not.mp howner, not_not.mp hstage, ?_, ?_,
              rfl⟩
            · split <;> omega
            · exact Nat.min_le_right _ _

/-- An accepted CAPTURE READ keeps the law, and its response sends the window of its entry (R142, R143). -/
theorem historyLaw_captureReadBegun (hs : s.historyLaw) (hr : s.receiving p = true) (he : s.entry e = some h)
    (ho : h.owner = p) (hready : h.stage = .ready) {pos k : Nat} (hpos : pos ≤ h.readPos) (hk : k ≤ h.targetShown - pos)
    (c : Cursor) :
    (s.setEntry e (some { h with readPos := pos })).historyLaw
    ∧ finds (s.setEntry e (some { h with readPos := pos })) p c
        (.capture e true (h.startShown + BitVec.ofNat 32 pos) k 0 none) := by
  have hfits := heldFits_of_entry s e h hs he
  obtain ⟨-, hwin, hst, -⟩ := id hfits
  simp only [Held.stageLaw, hready] at hst
  obtain ⟨w, hw, hcopied⟩ := hst
  simp only [State.windowLaw, hw] at hwin
  obtain ⟨-, -, hread, -⟩ := hwin
  have hno (q : PortId) : ∀ first k done cur, transfer (s.port q) ≠ .capture e true first k done cur := by
    by_cases hq : q = p
    · rw [hq, transfer_of_receiving s p hr]
      exact fun _ _ _ _ => nofun
    · exact no_transfer_of_owner s q e h hs he (ho ▸ hq)
  refine ⟨historyLaw_setEntry s e hs hno fun x hx => ?_, ?_⟩
  · cases hx
    exact ⟨heldFits_readPos s h hfits hready (hpos.trans hread), fun e' h' hne he' => bank_apart s e hs he hne he'⟩
  · have htarget : h.targetShown = w.target := by simp [Held.targetShown, hw]
    have hstart : h.startShown = w.start := by simp [Held.startShown, hw]
    refine ⟨_, w, State.setEntry_same _ _ _, ho, hready, hw, ?_, Nat.zero_le _, nofun, ?_⟩
    · dsimp only
      omega
    · rw [hstart]
      simp

theorem historyLaw_answerCaptureRead (hs : s.historyLaw) (hr : s.receiving p = true) (entry n fromStart : Byte) :
    (s.answerCaptureRead p entry n fromStart).state.historyLaw
    ∧ finds (s.answerCaptureRead p entry n fromStart).state p
        ((s.answerCaptureRead p entry n fromStart).state.port p).cursor (s.answerCaptureRead p entry n fromStart).xfer := by
  obtain ⟨rc, heq⟩ | ⟨e, h, pos, k, reply, he, ho, hready, hpos, hk, heq⟩ := answerCaptureRead_cases s p entry n fromStart
  · rw [heq]
    exact ⟨hs, trivial⟩
  · rw [heq]
    exact historyLaw_captureReadBegun s p e h hs hr he ho hready hpos hk _

/-- An entry of port `p` and the port's transfer of it replaced together. -/
theorem historyLaw_setEntry_setPort (hs : s.historyLaw) (he : s.entry e = some h) (ho : h.owner = p) {x : Held}
    (hb : x.bank = h.bank) (hx : heldFits s x) {y : Port} (hc : y.cursor = (s.port p).cursor)
    (hy : finds (s.setEntry e (some x)) p (s.port p).cursor (transfer y)) :
    ((s.setEntry e (some x)).setPort p y).historyLaw := by
  let u := s.setPort p { s.port p with framing := .idle }
  have hu : u.historyLaw := historyLaw_setFraming s p hs rfl trivial
  have hno (q : PortId) : ∀ first k done cur, transfer (u.port q) ≠ .capture e true first k done cur := by
    have hport : u.port q = if q = p then { s.port p with framing := .idle } else s.port q := s.port_setPort p q _
    rw [hport]
    split
    · exact fun _ _ _ _ => nofun
    · next hq => exact no_transfer_of_owner s q e h hs he (ho ▸ hq)
  have hue : (u.setEntry e (some x)).historyLaw := by
    refine historyLaw_setEntry u e hu hno fun z hz => ?_
    cases hz
    refine ⟨heldFits_congr s u (by simp [u]) (fun _ _ _ => by simp [u]) hx, fun e' h' hne he' => ?_⟩
    rw [hb]
    exact bank_apart s e hs he hne (by simpa [u, State.entry] using he')
  have hswap : (s.setEntry e (some x)).setPort p y = (u.setEntry e (some x)).setPort p y := by
    cases p <;> rfl
  have hcur : ((u.setEntry e (some x)).port p).cursor = (s.port p).cursor := by simp [u]
  rw [hswap]
  refine historyLaw_setFraming _ p hue (hc.trans hcur.symm) ?_
  rw [hcur]
  exact finds_congr _ _ p (by simp [u]) (by simp [u, State.setEntry]) hy

theorem historyLaw_captureReadPlaceBegin (hs : s.historyLaw) : (s.captureReadPlaceBegin p).historyLaw := by
  have hfinds := finds_port s p hs
  unfold State.captureReadPlaceBegin
  split
  · next left resp hf =>
    rw [transfer_of_response hf] at hfinds
    split
    · next e live first k done hx =>
      split
      · next hk =>
        refine historyLaw_setFraming s p hs rfl ?_
        rw [hx] at hfinds
        cases live with
        | false => trivial
        | true =>
          obtain ⟨h, w, he, ho, hready, hw, hpos, hdone, -, hseq⟩ := hfinds
          exact ⟨h, w, he, ho, hready, hw, hpos, hdone, fun _ => hk, hseq⟩
      · exact hs
    all_goals exact hs
  all_goals exact hs

theorem historyLaw_captureReadRecordComplete (hs : s.historyLaw) : (s.captureReadRecordComplete p).historyLaw := by
  have hfinds := finds_port s p hs
  unfold State.captureReadRecordComplete
  split
  · next left resp hf =>
    rw [transfer_of_response hf] at hfinds
    split
    · next e live first k done pl hx =>
      rw [hx] at hfinds
      cases live with
      | false => exact historyLaw_setFraming s p hs rfl trivial
      | true =>
        obtain ⟨h, w, he, ho, hready, hw, hpos, -, hdone, hseq⟩ := hfinds
        have hlt : done < k := hdone rfl
        have hfits := heldFits_of_entry s e h hs he
        obtain ⟨-, -, hst, -⟩ := id hfits
        simp only [Held.stageLaw, hready, hw, Option.some.injEq, exists_eq_left'] at hst
        have hadvance : s.advanceRead e true = s.setEntry e (some { h with readPos := h.readPos + 1 }) := by
          simp only [State.advanceRead, he]
        rw [hadvance, State.setResp, State.updPort, State.setEntry_port]
        refine historyLaw_setEntry_setPort s p e h hs he ho ?_ (heldFits_readPos s h hfits hready (by omega)) ?_ ?_
        · rfl
        · rfl
        refine ⟨_, w, State.setEntry_same _ _ _, ho, hready, hw, ?_, hlt, nofun, ?_⟩
        · dsimp only
          omega
        · dsimp only
          rw [BitVec.ofNat_add, BitVec.ofNat_add, ← BitVec.add_assoc, ← BitVec.add_assoc, hseq]
    all_goals exact hs
  all_goals exact hs

/-! ## Releases (R143 to R145) -/

theorem transfer_updXfer (x : Port) (gone : Fin 4 → Bool) :
    transfer (x.updXfer (releaseXfer gone)) = releaseXfer gone (transfer x) := by
  obtain ⟨framing, miso, settings, lapseTimer, latched, cursor⟩ := x
  cases framing <;> rfl

theorem cursor_updXfer (x : Port) (f : Xfer → Xfer) : (x.updXfer f).cursor = x.cursor := by
  unfold Port.updXfer
  split <;> rfl

theorem historyLaw_released {gone : Fin 4 → Bool} (hr : released s t gone) (hs : s.historyLaw) : t.historyLaw := by
  obtain ⟨hent, hport, hrest⟩ := hr
  obtain ⟨hst, hfinds⟩ := (historyLaw_iff s).mp hs
  have hi : t.items = s.items := by rw [hrest]
  have hm : t.store = s.store := by rw [hrest]
  have hg : t.ring = s.ring := by rw [hrest]
  have hold (e : Fin 4) (h : Held) (he : t.entry e = some h) : s.entry e = some h := by
    rw [hent] at he
    split at he
    · cases he
    · exact he
  have hcur (p : PortId) : (t.port p).cursor = (s.port p).cursor := by rw [hport, cursor_updXfer]
  refine (historyLaw_iff t).mpr ⟨⟨hi ▸ hst.items, hm ▸ hst.wf, ringLaw_congr s t hi hm hg hst.ring, fun p => ?_,
    fun e h he => ?_, fun e e' h h' he he' => hst.apart e e' h h' (hold e h he) (hold e' h' he')⟩, fun p => ?_⟩
  · rw [hcur]
    exact cursorFits_congr s t hi hg (hst.cursor p)
  · exact heldFits_congr s t hi (fun _ _ _ => by rw [hm]) (hst.held e h (hold e h he))
  · have hf := hfinds p
    have hholds (n : Seq) : t.holds n = s.holds n := by rw [State.holds, State.count, hg, State.holds, State.count]
    rw [hcur, hport, transfer_updXfer]
    generalize transfer (s.port p) = x at hf ⊢
    rcases x with _ | ⟨k, done, _ | ⟨r⟩ | n⟩ | ⟨e, _ | _, first, k, done, cur⟩
    case read.some.stroke => simpa only [releaseXfer, finds, hholds] using hf
    case capture.true =>
      cases hge : gone e with
      | true => simp only [releaseXfer, hge]; trivial
      | false => simpa [releaseXfer, finds, hge, hent] using hf
    all_goals trivial

theorem historyLaw_releaseEntry (hs : s.historyLaw) : (s.releaseEntry e).historyLaw :=
  historyLaw_released s _ (released_releaseEntry s s (released_refl s) e) hs

theorem historyLaw_releaseOwned (hs : s.historyLaw) : (s.releaseOwned p).historyLaw :=
  historyLaw_released s _ (releaseOwned_released s p) hs

theorem historyLaw_answerCaptureRelease (hs : s.historyLaw) (entry : Byte) :
    (s.answerCaptureRelease p entry).state.historyLaw := by
  unfold State.answerCaptureRelease
  dsimp only
  repeat' split
  all_goals first | exact hs | exact historyLaw_releaseEntry s _ hs

/-! ## What falls together with an append (R109, R128) -/

/-- The event that a waiting command brings: nothing, a place of a READ begun or completed, or a request of the ring or of a
cursor, at once or with the byte that an edge completes. -/
theorem ringEvent_cases {i : Instr} (hi : s.ringEvent i = some (p, t)) :
    t = s ∨ t = s.readPlaceBegin p ∨ t = s.readRecordComplete p
    ∨ (∃ j f, ringRequest j = some (p, f) ∧ t = s.onRequest p f)
    ∨ ∃ left rx got j f, (s.port p).framing = .request left rx ∧ ringRequest j = some (p, f)
        ∧ t = (s.updPort p fun x => { x with framing := .request transactionTime got }).onRequest p f := by
  unfold State.ringEvent at hi
  split at hi
  · next q edge mosi =>
    simp only [State.edgeEvent, Option.map_eq_some_iff, Prod.mk.injEq] at hi
    obtain ⟨u, hu, rfl, rfl⟩ := hi
    split at hu
    · next left rx hf =>
      simp only [Option.map_eq_some_iff, Option.bind_eq_some_iff] at hu
      obtain ⟨⟨q', f⟩, ⟨j, hj, hreq⟩, rfl⟩ := hu
      obtain rfl := complete_port _ _ hj hreq
      exact .inr (.inr (.inr (.inr ⟨left, rx, _, j, f, hf, hreq, rfl⟩)))
    · cases hu
    · cases hu
      split
      · exact .inr (.inr (.inl rfl))
      · exact .inl rfl
    · cases hu
      split
      · exact .inr (.inl rfl)
      · exact .inl rfl
    all_goals cases hu
  · cases hi
    exact .inr (.inl rfl)
  · cases hi
    exact .inr (.inr (.inl rfl))
  · simp only [Option.map_eq_some_iff, Prod.mk.injEq] at hi
    obtain ⟨⟨q, f⟩, hf, rfl, rfl⟩ := hi
    exact .inr (.inr (.inr (.inl ⟨_, f, hf, rfl⟩)))

theorem historyLaw_ringEvent {i : Instr} (hi : s.ringEvent i = some (p, t)) (hs : s.historyLaw) : t.historyLaw := by
  obtain rfl | rfl | rfl | ⟨j, f, hj, rfl⟩ | ⟨left, rx, got, j, f, -, hj, rfl⟩ := ringEvent_cases s t p hi
  · exact hs
  · exact historyLaw_readPlaceBegin s p hs
  · exact historyLaw_readRecordComplete s p hs
  · exact historyLaw_ringRequest s p hj hs
  · exact historyLaw_ringRequest _ p hj (historyLaw_setFraming s p hs rfl trivial)

theorem historyLaw_takeTogether (busy : List PortId) (hs : s.historyLaw) : (s.takeTogether busy).historyLaw :=
  s.takeTogether_induct busy State.historyLaw hs (fun u t q _ hu hi => historyLaw_ringEvent u t q hi hu)
    fun u _ hu => historyLaw_same (sameHistory_of_eq u _ rfl rfl rfl rfl rfl rfl) hu

end Sys2Proof.StrokeRing
end

section
/-!
PROOFS. The items, the slots and the engine keep the law of the stroke history (R46, R55, R64 to R72, R99, R100).
-/

namespace Sys2Proof.StrokeRing

open Sys2Proof.Machine Sys2Proof.KindsAndCurves Sys2Proof.ScanEngine

/-! ## Items in their ranges (table 9.8.3) -/

/-- A field of a tool kind that is stored is read back, and every other is as it was. -/
theorem kind_get_set (k : Kind) (f g : KindField) {v : Nat} (hv : (Item.kind 0 f).range.admits v = true) :
    (k.set f v).get g = if g = f then v else k.get g := by
  cases f
  case enabled =>
    have h2 : v < 2 := by simpa [Item.range, ItemRange.admits] using hv
    cases g <;> simp [Kind.set, Kind.get]
    interval_cases v <;> rfl
  case eraser =>
    have h9 : v < 9 := by simpa [Item.range, ItemRange.admits] using hv
    cases g <;> simp [Kind.set, Kind.get]
    interval_cases v <;> rfl
  case tip | collar | curve =>
    have hlt := hv
    simp only [Item.range, ItemRange.admits, decide_eq_true_eq] at hlt
    cases g <;> simp [Kind.set, Kind.get, Nat.mod_eq_of_lt hlt]
  all_goals cases g <;> simp [Kind.set, Kind.get]

/-- An item that is stored is read back, and every other is as it was. -/
theorem items_get_set (x : Items) (i j : Item) {v : Nat} (hv : i.range.admits v = true) :
    (x.set i v).get j = if j = i then v else x.get j := by
  cases i
  case checkMode =>
    have h2 : v < 2 := by simpa [Item.range, ItemRange.admits] using hv
    cases j <;> simp [Items.set, Items.get]
    interval_cases v <;> rfl
  case quietGating =>
    have h2 : v < 2 := by simpa [Item.range, ItemRange.admits] using hv
    cases j <;> simp [Items.set, Items.get]
    interval_cases v <;> rfl
  case chanM c | chanN c =>
    cases j <;> simp [Items.set, Items.get, Vector.getElem_set, Fin.ext_iff, eq_comm] <;> split <;> simp_all
  case kind k f =>
    have hf : (Item.kind 0 f).range.admits v = true := by cases f <;> exact hv
    cases j
    case kind l g =>
      by_cases hl : l = k
      · subst hl
        simp [Items.set, Items.get, kind_get_set _ f g hf]
      · have hl' : ¬ (k : Nat) = l := fun h => hl (Fin.ext h.symm)
        simp [Items.set, Items.get, hl, hl']
    all_goals simp [Items.set, Items.get]
  all_goals cases j <;> simp [Items.set, Items.get]

/-- Every item in its range, and the pitch even (R1). -/
def itemsInRange (x : Items) : Prop := (∀ i : Item, i.range.admits (x.get i) = true) ∧ x.pitch % 2 = 0

/-- A value accepted for the pitch is even (R1). -/
theorem accept_pitch_even {v w : Nat} (h : Item.pitch.accept v = some w) : w % 2 = 0 := by
  simp only [Item.accept, Item.range, if_true, Option.some.injEq] at h
  omega

theorem itemsInRange_set {x : Items} (h : itemsInRange x) {i : Item} {w : Nat} (hw : i.range.admits w = true)
    (heven : i = .pitch → w % 2 = 0) : itemsInRange (x.set i w) := by
  obtain ⟨hrange, hpitch⟩ := h
  refine ⟨fun j => ?_, ?_⟩
  · rw [items_get_set x i j hw]
    split
    · next hj => rwa [hj]
    · exact hrange j
  · change (x.set i w).get .pitch % 2 = 0
    rw [items_get_set x i _ hw]
    split
    · next hi => exact heven hi.symm
    · exact hpitch

/-- An accepted value is stored with every item in its range. -/
theorem itemsInRange_stored {x : Items} (h : itemsInRange x) {i : Item} {v w : Nat} (ha : i.accept v = some w) :
    itemsInRange (x.set i w) :=
  itemsInRange_set h (Item.accept_admits i v w ha) fun hi => accept_pitch_even (hi ▸ ha)

theorem lawful_iff (x : Items) : x.lawful ↔ itemsInRange x ∧ x.ringBase + x.ringBanks ≤ 8 := by
  unfold Items.lawful itemsInRange
  rw [and_assoc]

/-- Items in range are lawful once the ring is fitted into the eight banks (R99). -/
theorem lawful_fitRing {x : Items} (h : itemsInRange x) : x.fitRing.lawful := by
  have hbase : x.ringBase ≤ 7 := by simpa [Item.range, Items.get, ItemRange.admits] using h.1 .ringBase
  unfold Items.fitRing
  split
  · next hbig =>
    have hset : itemsInRange (x.set .ringBanks (8 - x.ringBase)) :=
      itemsInRange_set h (by simp [Item.range, ItemRange.admits]; omega) nofun
    refine (lawful_iff _).mpr ⟨hset, ?_⟩
    dsimp only
    omega
  · exact (lawful_iff _).mpr ⟨h, by omega⟩

/-- An item that is no ring geometry item leaves the ring in its banks. -/
theorem geometry_set_other {x : Items} {i : Item} {w : Nat} (hg : i.isGeometry = false) :
    (x.set i w).ringBase = x.ringBase ∧ (x.set i w).ringBanks = x.ringBanks := by
  cases i with
  | ringBase => cases hg
  | ringBanks => cases hg
  | _ => exact ⟨rfl, rfl⟩

theorem ringBanks_bounds {x : Items} (h : x.lawful) : 1 ≤ x.ringBanks ∧ x.ringBase + x.ringBanks ≤ 8 :=
  ⟨And.left (by simpa [Item.range, Items.get, ItemRange.admits] using h.1 .ringBanks), h.2.2⟩

section Stored

variable (s t : State) (p q : PortId) (e : Fin 4) (time : Time) (body : RecordBody) (i : SlotId)

/-! ## CONFIG WRITE (R46, R99, R100) -/

/-- Other items with the same ring geometry keep the law. -/
theorem historyLaw_setItems (hs : s.historyLaw) {x : Items} (hx : x.lawful) (hbase : x.ringBase = s.items.ringBase)
    (hbanks : x.ringBanks = s.items.ringBanks) : ({ s with items := x } : State).historyLaw := by
  obtain ⟨hst, hfinds⟩ := (historyLaw_iff s).mp hs
  let u : State := { s with items := x }
  have hport (p : PortId) : u.port p = s.port p := by cases p <;> rfl
  have hcap : u.capacity = s.capacity := congrArg (· * bankSlots) hbanks
  have hread (n : Seq) : u.ringRead n = s.ringRead n := by
    have hslot : u.ringSlot n = s.ringSlot n := by rw [State.ringSlot, hcap, State.ringSlot]
    have haddr (k : Nat) : u.ringAddr k = s.ringAddr k := congrArg (bankAddr · k) hbase
    have hholds : u.holds n = s.holds n := rfl
    rw [State.ringRead, State.ringRead, hholds, haddr, hslot]
  obtain ⟨hle, hw, hseq⟩ := hst.ring
  refine (historyLaw_iff u).mpr ⟨⟨hx, hst.wf, ⟨by rwa [hcap], by rwa [hcap], fun j hj => ?_⟩, fun p => ?_, fun e h he => ?_,
    hst.apart⟩, fun p => ?_⟩
  · rw [hread]
    exact hseq j hj
  · rw [hport]
    obtain ⟨hlag, hready, hready', hmargin, hskipped⟩ := hst.cursor p
    exact ⟨hlag, hready, by rwa [hcap], by rwa [hcap], hskipped⟩
  · obtain ⟨hbank, hrest⟩ := hst.held e h he
    refine ⟨?_, hrest⟩
    change x.isRingBank h.bank = false
    rw [Items.isRingBank, hbase, hbanks]
    exact hbank
  · rw [hport]
    exact finds_congr s u p rfl rfl (hfinds p)

/-- A geometry flush over an empty capture table keeps the law under any lawful items (R100, R126). -/
theorem historyLaw_geometryFlush (hs : s.historyLaw) (hempty : ∀ e, s.entry e = none) {x : Items} (hx : x.lawful) :
    (({ s with items := x } : State).geometryFlush).historyLaw := by
  obtain ⟨hst, hfinds⟩ := (historyLaw_iff s).mp hs
  obtain ⟨hbanks, -⟩ := ringBanks_bounds hx
  rw [geometryFlush_of_empty { s with items := x } hempty]
  let cap := ({ s with items := x } : State).capacity
  let port (y : Port) : Port := clampedPort cap (flushedPort s.ring.w y)
  let u : State := { s with
    items := x, ring := { w := s.ring.w, o := s.ring.w, writePos := 0 }, port0 := port s.port0, port1 := port s.port1 }
  have hport (p : PortId) : u.port p = port (s.port p) := by cases p <;> rfl
  have hcap : u.capacity = cap := rfl
  have hpos : 2 ≤ cap := by
    change 2 ≤ x.ringBanks * 512
    omega
  change u.historyLaw
  refine (historyLaw_iff u).mpr ⟨⟨hx, hst.wf, ringLaw_of_empty u (seqDist_self _) ?_, fun p => ?_, fun e h he => ?_, ?_⟩,
    fun p => ?_⟩
  · change 0 < cap
    omega
  · rw [hport]
    obtain ⟨-, hready, -, -, hskipped⟩ := hst.cursor p
    refine ⟨(seqDist_self _).le.trans (Nat.zero_le _), le_min hready (by omega), Nat.min_le_right _ _, ?_, hskipped⟩
    rw [hcap]
    exact (Nat.min_le_right _ _).trans_lt (by omega)
  · exact absurd he (by rw [show u.entry e = none from hempty e]; exact nofun)
  · intro e e' h h' he
    exact absurd he (by rw [show u.entry e = none from hempty e]; exact nofun)
  · have hf := hfinds p
    rw [hport]
    change finds u p _ (transfer (s.port p))
    refine finds_failsOnly s u p (c := (s.port p).cursor) (fun e => .inl rfl) (fun _ _ hmoved => ?_) hf
    cases hmoved

theorem historyLaw_storeItem (hs : s.historyLaw) {i : Item} {v w : Nat} (ha : i.accept v = some w)
    (hcap : (i.isGeometry && s.capturesPresent) = false) : (s.storeItem i w).historyLaw := by
  have hitems := ((historyLaw_iff s).mp hs).1.items
  have hset := itemsInRange_stored ((lawful_iff _).mp hitems).1 ha
  cases hg : i.isGeometry with
  | true =>
    have hempty (e : Fin 4) : s.entry e = none := by
      by_contra hne
      rw [hg, capturesPresent_of_entry s hne] at hcap
      cases hcap
    rw [storeItem_geometry s w hg]
    exact historyLaw_geometryFlush s hs hempty (lawful_fitRing hset)
  | false =>
    obtain ⟨hbase, hbanks⟩ := geometry_set_other (x := s.items) (w := w) hg
    have hlaw : (s.items.set i w).lawful := (lawful_iff _).mpr ⟨hset, by rw [hbase, hbanks]; exact hitems.2.2⟩
    have hkept := historyLaw_setItems s hs hlaw hbase hbanks
    unfold State.storeItem
    simp only [hg, Bool.false_eq_true, if_false]
    split
    · exact historyLaw_same (sameHistory_of_eq { s with items := s.items.set i w } _ rfl rfl rfl rfl rfl rfl) hkept
    · exact hkept

theorem historyLaw_answerConfigWrite (hs : s.historyLaw) (id : Byte) (value : Half) :
    (s.answerConfigWrite p id value).state.historyLaw := by
  unfold State.answerConfigWrite
  dsimp only
  split
  · exact hs
  · split
    · exact hs
    · split
      · exact hs
      · split
        · exact hs
        · next hcap =>
          split
          · exact hs
          · next hacc => exact historyLaw_storeItem s hs hacc (by simpa using hcap)

/-! ## The slots (R64, R65, R71) -/

theorem sameHistory_setSlot (x : Slot) : SameHistory s (s.setSlot i x) :=
  sameHistory_of_eq s _ (by simp) (by simp) (by simp) (by simp) (by simp) (by simp)

theorem sameHistory_setEngine (x : Engine) : SameHistory s { s with engine := x } :=
  sameHistory_of_eq s _ rfl rfl rfl rfl rfl rfl

theorem sameHistory_toEngine (x : Engine) : SameHistory s (s.toEngine x) :=
  sameHistory_trans (sameHistory_setEngine s x) (sameHistory_raiseBoth _ _)

theorem historyLaw_leave (hs : s.historyLaw) (t : Track) : (s.leave i t time).historyLaw := by
  obtain ⟨-, heq⟩ | ⟨v, -, -, heq⟩ := s.leave_cases time i t <;> rw [heq]
  · exact historyLaw_same (sameHistory_setSlot s i _) hs
  · exact historyLaw_same (sameHistory_trans (sameHistory_raiseBoth _ _) (sameHistory_setSlot _ i _))
      (historyLaw_append s time _ hs)

theorem historyLaw_closeSlot (hs : s.historyLaw) : (s.closeSlot i time).historyLaw := by
  obtain ⟨-, heq⟩ | ⟨t, -, heq⟩ := s.closeSlot_cases time i <;> rw [heq]
  · exact hs
  · exact historyLaw_leave s time i hs t

theorem historyLaw_goodFrame (hs : s.historyLaw) (t : Track) (sm : Sample) : (s.goodFrame i t sm time).historyLaw := by
  have hif {c : Prop} [Decidable c] {u v : State} (hu : u.historyLaw) (hv : v.historyLaw) :
      (if c then u else v).historyLaw := by
    split <;> assumption
  have happended (body : RecordBody) := historyLaw_append s time body hs
  have hraised (c : Prop) [Decidable c] (body : RecordBody) :
      (if c then (s.append time body).raiseBoth .prox else s.append time body).historyLaw :=
    hif (historyLaw_same (sameHistory_raiseBoth _ _) (happended body)) (happended body)
  unfold State.goodFrame
  dsimp only
  refine historyLaw_same (sameHistory_setSlot _ i _) (hif ?_ (hraised _ _))
  exact historyLaw_triggers _ .contact (hraised _ _)

theorem historyLaw_faintFrame (hs : s.historyLaw) (t : Track) (sm : Sample) : (s.faintFrame i t sm time).historyLaw := by
  unfold State.faintFrame
  dsimp only
  split
  · exact historyLaw_leave s time i hs t
  · split
    · exact historyLaw_same (sameHistory_setSlot _ i _) (historyLaw_append s time _ hs)
    · exact historyLaw_same (sameHistory_setSlot s i _) hs

theorem historyLaw_solveSlot (hs : s.historyLaw) (got : List (TrackRead × Reading)) : (s.solveSlot got time i).historyLaw := by
  obtain ⟨-, heq⟩ | ⟨t, -, ⟨-, heq⟩ | ⟨-, heq⟩⟩ := s.solveSlot_cases time i got <;> rw [heq]
  · exact hs
  · exact historyLaw_goodFrame s time i hs t _
  · exact historyLaw_faintFrame s time i hs t _

theorem historyLaw_solveStage (hs : s.historyLaw) (r : Run) (f : Frame) (got : List (TrackRead × Reading)) :
    (s.solveStage r f got).historyLaw :=
  historyLaw_same (sameHistory_setEngine _ _)
    (historyLaw_solveSlot _ _ .s1 (historyLaw_takeTogether _ [] (historyLaw_solveSlot s _ .s0 hs got)) got)

theorem historyLaw_stopFrames (hs : s.historyLaw) (r : Run) (cause : BreakCause) (x : Engine) :
    (s.stopFrames p r cause x).historyLaw := by
  have hclosed (u : State) (hu : u.historyLaw) (i : SlotId) : ((u.closeSlot i r.start).takeTogether [p]).historyLaw :=
    historyLaw_takeTogether _ [p] (historyLaw_closeSlot u r.start i hu)
  exact historyLaw_same (sameHistory_toEngine _ _) (historyLaw_append _ _ _ (hclosed _ (hclosed s hs .s0) .s1))

/-! ## The check (R9, R40, R43) -/

theorem sameHistory_startCheck : SameHistory s s.startCheck := by
  obtain ⟨-, -, -, -, hport, hframe⟩ := startCheck_checkStarted s
  refine ⟨by rw [hframe], by rw [hframe], by rw [hframe], by rw [hframe], fun p => ?_, fun p => ?_⟩
  · rw [hport]
  · rw [hport]
    rfl

theorem sameHistory_enterScanning : SameHistory s s.enterScanning :=
  sameHistory_trans (sameHistory_setEngine s _) (sameHistory_raiseBoth _ _)

theorem sameHistory_completeCheck (failed : Bool) : SameHistory s (s.completeCheck failed) := by
  have hreport (r : Report) : SameHistory s { s with report := r } := sameHistory_of_eq s _ rfl rfl rfl rfl rfl rfl
  obtain ⟨-, heq⟩ | ⟨-, -, heq⟩ | ⟨-, -, heq⟩ := s.completeCheck_cases failed <;> rw [heq]
  · exact sameHistory_trans (hreport _) (sameHistory_trans (sameHistory_toEngine _ _) (sameHistory_raiseBoth _ _))
  · exact sameHistory_trans (hreport _) (sameHistory_toEngine _ _)
  · exact sameHistory_trans (hreport _) (sameHistory_enterScanning _)

theorem sameHistory_classifyCoil (pass : SensePass) (level : Nat) : SameHistory s (s.classifyCoil pass level).1 := by
  unfold State.classifyCoil
  split
  · exact sameHistory_refl s
  · exact sameHistory_of_eq s _ rfl rfl rfl rfl rfl rfl

theorem sameHistory_setMap (m : DefectMap) : SameHistory s { s with map := m } :=
  sameHistory_of_eq s _ rfl rfl rfl rfl rfl rfl

theorem sameHistory_coilSensingEnd (level : Nat) : SameHistory s (s.coilSensingEnd level) := by
  unfold State.coilSensingEnd
  split
  · next pass _ =>
    have hclassified := sameHistory_classifyCoil s pass level
    dsimp only
    split
    · split
      · exact sameHistory_trans hclassified (sameHistory_setEngine _ _)
      · exact sameHistory_trans hclassified
          (sameHistory_trans (sameHistory_setMap _ _) (sameHistory_completeCheck _ _))
    · exact sameHistory_refl s
  all_goals exact sameHistory_refl s

/-! ## The hold and run sets (R34 to R38) -/

theorem sameHistory_sets (hold run : PortSet) : SameHistory s { s with hold := hold, run := run } :=
  sameHistory_of_eq s _ rfl rfl rfl rfl rfl rfl

theorem historyLaw_holdEffect (hs : s.historyLaw) : (s.holdEffect p).historyLaw := by
  have hjoined : ({ s with hold := s.hold.insert p } : State).historyLaw := historyLaw_same (sameHistory_sets s _ s.run) hs
  unfold State.holdEffect
  dsimp only
  split
  · exact hjoined
  · exact historyLaw_same
      (sameHistory_trans (sameHistory_of_eq _ _ rfl rfl rfl rfl rfl rfl) (sameHistory_toEngine _ _)) hjoined
  · exact historyLaw_same (sameHistory_toEngine _ _) hjoined
  · exact historyLaw_stopFrames _ p hjoined _ _ _

theorem historyLaw_releaseEffect (hs : s.historyLaw) : (s.releaseEffect p).historyLaw := by
  have hleft : ({ s with hold := s.hold.erase p } : State).historyLaw := historyLaw_same (sameHistory_sets s _ s.run) hs
  unfold State.releaseEffect
  dsimp only
  split
  · exact historyLaw_same (sameHistory_startCheck _) hleft
  · exact hleft

theorem historyLaw_runEffect (hs : s.historyLaw) : (s.runEffect p).historyLaw := by
  have hjoined : ({ s with run := s.run.insert p } : State).historyLaw := historyLaw_same (sameHistory_sets s s.hold _) hs
  unfold State.runEffect
  dsimp only
  split
  · exact historyLaw_same (sameHistory_enterScanning _) hjoined
  all_goals exact hjoined

theorem historyLaw_stopEffect (hs : s.historyLaw) : (s.stopEffect p).historyLaw := by
  have hleft : ({ s with run := s.run.erase p } : State).historyLaw := historyLaw_same (sameHistory_sets s s.hold _) hs
  unfold State.stopEffect
  dsimp only
  split
  · split
    · exact historyLaw_stopFrames _ p hleft _ _ _
    · exact hleft
  all_goals exact hleft

theorem historyLaw_withdraw (hs : s.historyLaw) : (s.withdraw p).historyLaw := by
  have hleft : ({ s with hold := s.hold.erase p, run := s.run.erase p } : State).historyLaw :=
    historyLaw_same (sameHistory_sets s _ _) hs
  obtain ⟨-, -, heq⟩ | heq | ⟨-, -, -, heq⟩ | ⟨r, -, -, heq⟩ := s.withdraw_cases p <;> rw [heq]
  · exact hs
  · exact hleft
  · exact historyLaw_same (sameHistory_startCheck _) hleft
  · exact historyLaw_stopFrames _ p hleft r _ _

theorem sameHistory_orphanCurves : SameHistory s (s.orphanCurves p) := sameHistory_of_eq s _ rfl rfl rfl rfl rfl rfl

theorem historyLaw_dropClaims (hs : s.historyLaw) : (s.dropClaims p).historyLaw :=
  historyLaw_same (sameHistory_orphanCurves _ p)
    (historyLaw_releaseOwned _ p (historyLaw_withdraw s p hs))

/-! ## The events of a frame (R49 to R54) -/

theorem historyLaw_evaluateSweep (hs : s.historyLaw) (sw : Sweep) : (s.evaluateSweep sw).historyLaw := by
  have hslots := slotsOnly_evaluateSweep s sw
  unfold slotsOnly at hslots
  rw [hslots]
  exact historyLaw_same (sameHistory_of_eq s _ rfl rfl rfl rfl rfl rfl) hs

theorem historyLaw_setRun (hs : s.historyLaw) (r : Run) : (s.setRun r).historyLaw :=
  historyLaw_same (sameHistory_setEngine s _) hs

theorem historyLaw_trackingEnd (hs : s.historyLaw) (r : Run) (f : Frame) (cur : TrackRead) (rest : List TrackRead)
    (got : List (TrackRead × Reading)) (reading : Reading) : (s.trackingEnd r f cur rest got reading).historyLaw := by
  unfold State.trackingEnd
  split
  · exact historyLaw_setRun s hs _
  · exact historyLaw_solveStage s hs r f _

theorem historyLaw_searchEnd (hs : s.historyLaw) (r : Run) (f : Frame) (budget : Nat) (sw : Sweep) (reading : Reading) :
    (s.searchEnd r f budget sw reading).historyLaw := by
  unfold State.searchEnd
  dsimp only
  split
  · exact historyLaw_setRun _ (historyLaw_evaluateSweep s hs _) _
  · split
    · exact historyLaw_setRun s hs _
    · exact historyLaw_setRun s hs _

theorem historyLaw_readingEnd (hs : s.historyLaw) (reading : Reading) : (s.readingEnd reading).historyLaw := by
  unfold State.readingEnd
  split
  · split
    · split
      · exact historyLaw_trackingEnd s hs _ _ _ _ _ reading
      · split
        · exact historyLaw_searchEnd s hs _ _ _ _ reading
        · exact hs
      all_goals exact hs
    · exact hs
  all_goals exact hs

theorem historyLaw_endGuard (hs : s.historyLaw) (r : Run) (f : Frame) : (s.endGuard r f).historyLaw := by
  unfold State.endGuard
  dsimp only
  repeat' split
  all_goals exact historyLaw_setRun s hs _

theorem historyLaw_guardExpiry (hs : s.historyLaw) : s.guardExpiry.historyLaw := by
  unfold State.guardExpiry
  split
  · split
    · split
      · exact historyLaw_endGuard s hs _ _
      all_goals exact hs
    · exact hs
  all_goals exact hs

theorem historyLaw_frameStart (hs : s.historyLaw) : s.frameStart.historyLaw := by
  unfold State.frameStart
  split
  · split
    · split
      · exact historyLaw_same (sameHistory_setEngine s _) hs
      · exact hs
    · exact hs
  all_goals exact hs

theorem historyLaw_quietRise (hs : s.historyLaw) : s.quietRise.historyLaw := by
  have hhigh : ({ s with quiet := true } : State).historyLaw :=
    historyLaw_same (sameHistory_of_eq s _ rfl rfl rfl rfl rfl rfl) hs
  unfold State.quietRise
  dsimp only
  split
  · split
    · exact historyLaw_setRun _ hhigh _
    · exact hhigh
  all_goals exact hhigh

theorem historyLaw_quietTimerExpiry (hs : s.historyLaw) : s.quietTimerExpiry.historyLaw := by
  unfold State.quietTimerExpiry
  split
  · split
    · split
      · split
        · exact historyLaw_setRun _ (historyLaw_same (sameHistory_raiseBoth s _) hs) _
        · exact hs
      · exact hs
    · exact hs
  all_goals exact hs

end Stored

end Sys2Proof.StrokeRing
end

section
/-!
PROOFS. Every command keeps the law of the stroke history (O60).
-/

namespace Sys2Proof.StrokeRing

open Sys2Proof.Machine Sys2Proof.KindsAndCurves Sys2Proof.ScanEngine

variable (s t : State) (p q : PortId) (e : Fin 4)

/-! ## Requests -/

/-- What a request does when it is complete (R148); an event is no request. -/
def requestAnswer : Instr → State → Answer
  | .status p => fun t => t.answerStatus p
  | .read p n => fun t => t.answerRead p n
  | .mark p => fun t => t.answerMark p
  | .rewind p => fun t => t.answerRewind p
  | .cursorSetup p mode ready margin => fun t => t.answerCursorSetup p mode ready margin
  | .portSetup p format order lapse enable => fun t => t.answerPortSetup p format order lapse enable
  | .ack p conds => fun t => t.answerAck p conds
  | .hold p => fun t => t.answerHold p
  | .release p => fun t => t.answerRelease p
  | .run p => fun t => t.answerRun p
  | .stop p => fun t => t.answerStop p
  | .flush _ => State.answerFlush
  | .portReset p => fun t => t.answerPortReset p
  | .configWrite p id value => fun t => t.answerConfigWrite p id value
  | .configRead _ id => fun t => t.answerConfigRead id
  | .curveBegin p number count => fun t => t.answerCurveBegin p number count
  | .curveKnot p number input output => fun t => t.answerCurveKnot p number input output
  | .curveRead _ number => fun t => t.answerCurveRead number
  | .checkReport _ => State.answerCheckReport
  | .capture p trigger first second drive => fun t => t.answerCapture p trigger first second drive
  | .captureStatus _ => State.answerCaptureStatus
  | .captureRead p entry n fromStart => fun t => t.answerCaptureRead p entry n fromStart
  | .captureRelease p entry => fun t => t.answerCaptureRelease p entry
  | _ => State.answerBadCommand

/-- A request is its answer, taken on its port; a BAD_COMMAND whose code names a command does nothing (log 2). -/
theorem runRequest_eq {i : Instr} (hi : i.requestPort = some p) :
    runRequest i s = .next (s.onRequest p (requestAnswer i))
    ∨ ∃ code, i = .badCommand p code ∧ i.wellFormed = false ∧ runRequest i s = .next s := by
  cases i with
  | badCommand p' code =>
    cases hi
    by_cases hc : commandCodes.contains code = true
    · exact .inr ⟨code, rfl, by simp only [Instr.wellFormed, hc]; rfl,
        by simp only [runRequest, execBadCommand, hc, if_true]⟩
    · refine .inl ?_
      simp only [runRequest, execBadCommand, hc]
      rfl
  | _ =>
    cases hi
    all_goals exact .inl rfl

/-- An event that is given as a request does nothing. -/
theorem runRequest_event {i : Instr} (hi : i.requestPort = none) : runRequest i s = .next s := by
  cases i <;> first | rfl | cases hi

theorem historyLaw_answerPortReset (hs : s.historyLaw) (hr : s.receiving p = true) :
    (s.answerPortReset p).state.historyLaw := by
  let u := s.dropClaims p
  have hu : u.historyLaw := historyLaw_dropClaims s p hs
  have hreset : (u.updPort p fun x => x.afterPortReset u.ring.w).historyLaw := by
    obtain ⟨hbanks, -⟩ := ringBanks_bounds ((historyLaw_iff u).mp hu).1.items
    have hcap : 512 ≤ u.capacity := by
      change 512 ≤ u.items.ringBanks * 512
      omega
    refine historyLaw_setPort u p hu ⟨(seqDist_self _).le.trans (Nat.zero_le _), le_refl 1, ?_, ?_, Nat.zero_le _⟩ ?_
    · change 1 ≤ _
      omega
    · change 256 < _
      omega
    · change finds u p _ (transfer (u.port p))
      rw [transfer_of_sameFraming (dropClaims_sameFraming s p hr), transfer_of_receiving s p hr]
      trivial
  exact historyLaw_same (sameHistory_raise _ _ _) hreset

theorem sameHistory_answerPortSetup (format order lapse : Byte) (enable : Half) :
    SameHistory s (s.answerPortSetup p format order lapse enable).state := by
  unfold State.answerPortSetup
  split
  · exact sameHistory_setPort s p rfl rfl
  · exact sameHistory_refl s

theorem sameHistory_setCurve (c : Fin 4) (x : Curve) : SameHistory s (s.setCurve c x) :=
  sameHistory_of_eq s _ rfl rfl rfl rfl rfl rfl

theorem sameHistory_answerCurveBegin (number count : Byte) : SameHistory s (s.answerCurveBegin p number count).state := by
  unfold State.answerCurveBegin
  dsimp only
  repeat' split
  all_goals first | exact sameHistory_refl s | exact sameHistory_setCurve s _ _

theorem sameHistory_answerCurveKnot (number : Byte) (input output : Half) :
    SameHistory s (s.answerCurveKnot p number input output).state := by
  unfold State.answerCurveKnot
  dsimp only
  repeat' split
  all_goals first | exact sameHistory_refl s | exact sameHistory_setCurve s _ _

theorem historyLaw_answerRelease (hs : s.historyLaw) : (s.answerRelease p).state.historyLaw := by
  unfold State.answerRelease
  split
  · exact historyLaw_releaseEffect s p hs
  · exact hs

/-- Whether the response to a request fills places while it is sent: to READ and CAPTURE READ alone (R149). -/
def fillsPlaces : Instr → Bool
  | .read _ _ | .captureRead _ _ _ _ => true
  | _ => false

/-- A response that fills no places while it is sent has none to fill. -/
theorem requestAnswer_xfer {i : Instr} (hi : fillsPlaces i = false) : (requestAnswer i s).xfer = .none := by
  cases i
  case read | captureRead => cases hi
  case rewind =>
    simp only [requestAnswer, State.answerRewind]
    repeat' split
    all_goals rfl
  case cursorSetup | portSetup | release | configRead | curveRead =>
    simp only [requestAnswer, State.answerCursorSetup, State.answerPortSetup, State.answerRelease, State.answerConfigRead,
      State.answerCurveRead]
    split <;> rfl
  case configWrite | curveBegin | curveKnot | capture | captureRelease =>
    simp only [requestAnswer, State.answerConfigWrite, State.answerCurveBegin, State.answerCurveKnot, State.answerCapture,
      State.answerCaptureRelease]
    repeat' split
    all_goals rfl
  all_goals rfl

/-- A complete request keeps the law. -/
theorem historyLaw_request {i : Instr} (hi : i.requestPort = some p) (hs : s.historyLaw) :
    (s.onRequest p (requestAnswer i)).historyLaw := by
  have hplain (hf : fillsPlaces i = false) (hstate : s.receiving p = true → (requestAnswer i s).state.historyLaw) :
      (s.onRequest p (requestAnswer i)).historyLaw :=
    historyLaw_onRequest_plain s p hs (requestAnswer_xfer s hf) hstate
  have hsame (hf : fillsPlaces i = false) (hstate : SameHistory s (requestAnswer i s).state) :
      (s.onRequest p (requestAnswer i)).historyLaw := hplain hf fun _ => historyLaw_same hstate hs
  have hstill (hf : fillsPlaces i = false) (hstate : (requestAnswer i s).state = s) :
      (s.onRequest p (requestAnswer i)).historyLaw := hplain hf fun _ => hstate.symm ▸ hs
  cases i with
  | status p => exact hstill rfl rfl
  | read p n => cases hi; exact historyLaw_ringRequest s p (i := .read p n) rfl hs
  | mark p => cases hi; exact historyLaw_ringRequest s p (i := .mark p) rfl hs
  | rewind p => cases hi; exact historyLaw_ringRequest s p (i := .rewind p) rfl hs
  | cursorSetup p mode ready margin =>
    cases hi
    exact historyLaw_ringRequest s p (i := .cursorSetup p mode ready margin) rfl hs
  | portSetup p format order lapse enable => exact hsame rfl (sameHistory_answerPortSetup s _ _ _ _ _)
  | ack p conds => exact hsame rfl (sameHistory_setPort s _ rfl rfl)
  | hold p => exact hplain rfl fun _ => historyLaw_holdEffect s _ hs
  | release p => exact hplain rfl fun _ => historyLaw_answerRelease s _ hs
  | run p => exact hplain rfl fun _ => historyLaw_runEffect s _ hs
  | stop p => exact hplain rfl fun _ => historyLaw_stopEffect s _ hs
  | flush p => cases hi; exact historyLaw_ringRequest s p (i := .flush p) rfl hs
  | portReset p => cases hi; exact hplain rfl fun hr => historyLaw_answerPortReset s p hs hr
  | configWrite p id value => exact hplain rfl fun _ => historyLaw_answerConfigWrite s _ hs id value
  | configRead p id => exact hstill rfl (answerConfigRead_state s id)
  | curveBegin p number count => exact hsame rfl (sameHistory_answerCurveBegin s _ _ _)
  | curveKnot p number input output => exact hsame rfl (sameHistory_answerCurveKnot s _ _ _ _)
  | curveRead p number => exact hstill rfl (answerCurveRead_state s number)
  | checkReport p => exact hstill rfl rfl
  | capture p trigger first second drive => exact hplain rfl fun _ => historyLaw_answerCapture s _ hs _ _ _ _
  | captureStatus p => exact hstill rfl rfl
  | captureRead p entry n fromStart =>
    cases hi
    exact historyLaw_onRequest s p hs fun hr => historyLaw_answerCaptureRead s p hs hr entry n fromStart
  | captureRelease p entry => exact hplain rfl fun _ => historyLaw_answerCaptureRelease s _ hs entry
  | badCommand p code => exact hstill rfl rfl
  | _ => cases hi

theorem historyLaw_runRequest {i : Instr} (h : runRequest i s = .next t) (hs : s.historyLaw) : t.historyLaw := by
  cases hi : i.requestPort with
  | none =>
    cases (runRequest_event s hi).symm.trans h
    exact hs
  | some p =>
    obtain heq | ⟨-, -, -, heq⟩ := runRequest_eq s p hi
    · cases heq.symm.trans h
      exact historyLaw_request s p hi hs
    · cases heq.symm.trans h
      exact hs

/-! ## Framing, time and full reset -/

theorem sameHistory_shiftOut : SameHistory s (s.shiftOut p) := by
  refine sameHistory_setPort s p ?_ ?_ <;> dsimp only
  · split <;> rfl
  · split
    · next left resp hf => rw [transfer_of_response hf]; rfl
    all_goals rfl

theorem historyLaw_execSclkEdge (edge : ClockEdge) (mosi : Bool) (h : execSclkEdge p edge mosi s = .next t)
    (hs : s.historyLaw) : t.historyLaw := by
  unfold execSclkEdge at h
  split at h
  · next left rx hf =>
    have hgot (got : Rx) : (s.updPort p fun x => { x with framing := .request transactionTime got }).historyLaw :=
      historyLaw_setFraming s p hs rfl trivial
    unfold State.requestRise at h
    dsimp only at h
    split at h
    · exact historyLaw_runRequest _ t h (hgot _)
    · cases h
      exact hgot _
  · cases h
    exact historyLaw_setFraming s p hs rfl trivial
  · next left resp hf =>
    cases h
    unfold State.responseRise
    split
    · exact historyLaw_captureReadRecordComplete _ p (historyLaw_readRecordComplete s p hs)
    · refine historyLaw_same (sameHistory_setPort s p rfl ?_) hs
      exact (transfer_of_response hf).symm
  · cases h
    refine historyLaw_same (sameHistory_shiftOut _ p) ?_
    split
    · exact historyLaw_captureReadPlaceBegin _ p (historyLaw_readPlaceBegin s p hs)
    · exact hs
  all_goals
    cases h
    exact hs

theorem historyLaw_csFall (hs : s.historyLaw) : (s.csFall p).historyLaw := by
  unfold State.csFall
  split
  · exact historyLaw_setFraming s p hs rfl trivial
  all_goals exact hs

theorem historyLaw_abandon (hs : s.historyLaw) : (s.abandon p).historyLaw := by
  unfold State.abandon
  split
  · exact historyLaw_setFraming s p hs rfl trivial
  · exact historyLaw_setFraming s p hs rfl trivial
  all_goals exact hs

theorem historyLaw_lapseTimerExpiry (hs : s.historyLaw) : (s.lapseTimerExpiry p).historyLaw := by
  unfold State.lapseTimerExpiry
  dsimp only
  split
  · have hstopped := historyLaw_same (sameHistory_setPort s p (x := { s.port p with lapseTimer := none }) rfl rfl) hs
    split
    · exact historyLaw_same (sameHistory_trans (sameHistory_raise _ _ _) (sameHistory_raise _ _ _))
        (historyLaw_dropClaims _ p hstopped)
    · exact hstopped
  · exact hs

theorem sameHistory_tick : SameHistory s s.tick := by
  refine ⟨rfl, rfl, rfl, rfl, fun p => ?_, fun p => ?_⟩ <;> rw [tick_port]
  · rfl
  · unfold transfer Port.tick
    cases (s.port p).framing <;> rfl

theorem sameHistory_tsyncPulseExpiry : SameHistory s (if s.pulse = some 0 then { s with pulse := none } else s) := by
  split
  · exact sameHistory_of_eq s _ rfl rfl rfl rfl rfl rfl
  · exact sameHistory_refl s

/-- The items after full reset are lawful (table 9.8.3). -/
theorem lawful_reset : Items.reset.lawful := by
  refine ⟨fun i => ?_, by decide, by decide⟩
  cases i with
  | chanM c => fin_cases c <;> rfl
  | chanN c => fin_cases c <;> rfl
  | kind k f => fin_cases k <;> cases f <;> rfl
  | _ => rfl

theorem historyLaw_resetWith (tile1 tile0 cs0 cs1 quiet : Bool) :
    (State.resetWith tile1 tile0 cs0 cs1 quiet).historyLaw := by
  have hport (p : PortId) : ∃ high, (State.resetWith tile1 tile0 cs0 cs1 quiet).port p = Port.reset high := by
    cases p
    · exact ⟨cs0, rfl⟩
    · exact ⟨cs1, rfl⟩
  have hempty (e : Fin 4) : (State.resetWith tile1 tile0 cs0 cs1 quiet).entry e = none := by fin_cases e <;> rfl
  refine (historyLaw_iff _).mpr ⟨⟨lawful_reset, Store.nil_wf, ringLaw_of_empty _ (seqDist_self _)
    (by change 0 < _; exact Nat.mul_pos (by decide : 0 < Items.reset.ringBanks) (by decide)), fun p => ?_,
    fun e h he => ?_, fun e e' h h' he => ?_⟩, fun p => ?_⟩
  · obtain ⟨high, hp⟩ := hport p
    rw [hp]
    have hcap : (State.resetWith tile1 tile0 cs0 cs1 quiet).capacity = Items.reset.ringBanks * 512 := rfl
    refine ⟨(seqDist_self _).le.trans (Nat.zero_le _), le_refl 1, ?_, ?_, Nat.zero_le _⟩ <;> rw [hcap]
    · change 1 ≤ _
      decide
    · change 256 < _
      decide
  · rw [hempty] at he
    cases he
  · rw [hempty] at he
    cases he
  · obtain ⟨high, hp⟩ := hport p
    rw [hp]
    cases high <;> trivial

/-! ## Every command and every step -/

/-- Every command keeps the law. -/
theorem exec_keepsHistoryLaw (i : Instr) (h : exec i s = .next t) (hs : s.historyLaw) : t.historyLaw := by
  have hto {u : State} (hu : exec i s = .next u) (hk : u.historyLaw) : t.historyLaw := by
    cases hu.symm.trans h
    exact hk
  have hsame {u : State} (hu : exec i s = .next u) (hk : SameHistory s u) : t.historyLaw := hto hu (historyLaw_same hk hs)
  have hrequest (p : PortId) (hp : i.requestPort = some p) : t.historyLaw :=
    historyLaw_runRequest s t ((exec_eq_runRequest s p i hp).symm.trans h) hs
  cases i with
  | fullReset tile1 tile0 cs0 cs1 quiet =>
    exact hto rfl (historyLaw_same (sameHistory_of_eq _ _ rfl rfl rfl rfl rfl rfl)
      (historyLaw_resetWith tile1 tile0 cs0 cs1 quiet))
  | csFall p => exact hto rfl (historyLaw_csFall s p hs)
  | csRise p => exact hto rfl (historyLaw_setFraming s p hs rfl trivial)
  | transactionAbandoned p => exact hto rfl (historyLaw_abandon s p hs)
  | lapseTimerExpiry p => exact hto rfl (historyLaw_lapseTimerExpiry s p hs)
  | frameStart => exact hto rfl (historyLaw_frameStart s hs)
  | readingEnd amplitude phase => exact hto rfl (historyLaw_readingEnd s hs _)
  | guardExpiry => exact hto rfl (historyLaw_guardExpiry s hs)
  | coilSensingEnd level => exact hsame rfl (sameHistory_coilSensingEnd s _)
  | quietRise => exact hto rfl (historyLaw_quietRise s hs)
  | quietFall => exact hsame rfl (sameHistory_of_eq s _ rfl rfl rfl rfl rfl rfl)
  | quietTimerExpiry => exact hto rfl (historyLaw_quietTimerExpiry s hs)
  | tsyncFall => exact hto rfl (historyLaw_triggers s .sync hs)
  | tsyncPulseExpiry => exact hsame rfl (sameHistory_tsyncPulseExpiry s)
  | captureCopy entry => exact hto rfl (historyLaw_captureCopy s entry hs)
  | readPlaceBegin p => exact hto rfl (historyLaw_readPlaceBegin s p hs)
  | readRecordComplete p => exact hto rfl (historyLaw_readRecordComplete s p hs)
  | captureReadPlaceBegin p => exact hto rfl (historyLaw_captureReadPlaceBegin s p hs)
  | captureReadRecordComplete p => exact hto rfl (historyLaw_captureReadRecordComplete s p hs)
  | sclkEdge p edge mosi => exact historyLaw_execSclkEdge s t p edge mosi h hs
  | timestampCounterTick => exact hsame rfl (sameHistory_tick s)
  | _ => exact hrequest _ rfl

/-- Settles O60: a step is a command, which keeps the law, or idles. -/
theorem historyLawKept : Obligations.HistoryLawKept := by
  intro s t hs h
  obtain rfl | ⟨i, rest, h⟩ := ScanEngine.step_cases s t h
  · exact hs
  · have hrest := sameHistory_of_eq s { s with pending := rest } rfl rfl rfl rfl rfl rfl
    exact exec_keepsHistoryLaw _ t i h (historyLaw_same hrest hs)

end Sys2Proof.StrokeRing
end

section
/-!
PROOFS. The bytes of a record place (O54): a list of fields puts each field at the sum of the sizes before it.
-/

namespace Sys2Proof.StrokeRing

open Sys2Proof.Machine

variable (order : ByteOrder)

/-! ## Fields in a list of bytes -/

/-- The number of bytes of a field. -/
def fieldSize : Field → Nat
  | .u8 _ => 1
  | .u16 _ => 2
  | .u32 _ => 4

/-- The number a field holds. -/
def fieldValue : Field → Nat
  | .u8 v => v.toNat
  | .u16 v => v.toNat
  | .u32 v => v.toNat

/-- The number that bytes spell in a byte order. -/
def spelled (bytes : List Byte) : Nat :=
  (if order = .little then bytes.reverse else bytes).foldl (fun acc b => acc * 256 + b.toNat) 0

/-- The bytes that stand before field `i`. -/
def offsetOf (fields : List Field) (i : Nat) : Nat := ((fields.take i).map fieldSize).sum

theorem length_fieldBytes (f : Field) : (f.bytes order).length = fieldSize f := by
  cases f <;> cases order <;> rfl

theorem length_flatMap_fieldBytes (fields : List Field) :
    (fields.flatMap (Field.bytes order)).length = (fields.map fieldSize).sum := by
  rw [List.length_flatMap]
  exact congrArg List.sum (List.map_congr_left fun f _ => length_fieldBytes order f)

/-- The bytes of a field spell its number in either order (R159). -/
theorem spelled_fieldBytes (f : Field) : spelled order (f.bytes order) = fieldValue f := by
  cases f with
  | u8 v => cases order <;> simp [spelled, Field.bytes, fieldValue]
  | u16 v =>
    have hv := v.isLt
    cases order <;>
      simp [spelled, Field.bytes, fieldValue, halfBytes, BitVec.extractLsb'_toNat, Nat.shiftRight_eq_div_pow] <;> omega
  | u32 v =>
    have hv := v.isLt
    cases order <;>
      simp [spelled, Field.bytes, fieldValue, wordBytes, BitVec.extractLsb'_toNat, Nat.shiftRight_eq_div_pow] <;> omega

/-- Field `i` stands after the fields before it. -/
theorem bytes_at_offset {fields : List Field} {i : Nat} {f : Field} (hf : fields[i]? = some f) :
    ((fields.flatMap (Field.bytes order)).drop (offsetOf fields i)).take (fieldSize f) = f.bytes order := by
  induction fields generalizing i with
  | nil => cases hf
  | cons g fields ih =>
    cases i with
    | zero =>
      cases hf
      exact List.take_left' (length_fieldBytes order _)
    | succ i =>
      have hoff : offsetOf (g :: fields) (i + 1) = (g.bytes order).length + offsetOf fields i := by
        rw [length_fieldBytes]
        rfl
      rw [List.flatMap_cons, hoff, List.drop_length_add_append]
      exact ih hf

/-- What stands at the offset of field `i` spells its number. -/
theorem spelled_at_offset {fields : List Field} {i : Nat} {f : Field} (hf : fields[i]? = some f) :
    spelled order (((fields.flatMap (Field.bytes order)).drop (offsetOf fields i)).take (fieldSize f)) = fieldValue f := by
  rw [bytes_at_offset order hf, spelled_fieldBytes]

/-! ## What a field holds -/

theorem fieldValue_half {n : Nat} (h : n < 65536) : fieldValue (.half n) = n :=
  (BitVec.toNat_ofNat _ _).trans (Nat.mod_eq_of_lt h)

theorem fieldValue_word {n : Nat} (h : n < 2 ^ 32) : fieldValue (.u32 (BitVec.ofNat 32 n)) = n :=
  (BitVec.toNat_ofNat _ _).trans (Nat.mod_eq_of_lt h)

/-- A two-byte signed field reads back as its number. -/
theorem toInt_signedField {n : Int} (hlow : -32768 ≤ n) (hhigh : n ≤ 32767) :
    (BitVec.ofNat 16 (fieldValue (Field.signed n))).toInt = n := by
  change (BitVec.ofNat 16 (BitVec.ofInt 16 n).toNat).toInt = n
  rw [BitVec.ofNat_toNat, BitVec.setWidth_eq]
  exact BitVec.toInt_ofInt_eq_self (by decide) hlow (by omega)

theorem toolByte_toNat (slot : SlotId) (kind : Fin 4) (e : ToolEnd) (tile : BitVec 2) :
    (toolByte slot kind e tile).toNat = (match slot with | .s0 => 0 | .s1 => 1) + 2 * kind.val
      + 8 * (match e with | .tip => 0 | .eraser => 1) + 64 * tile.toNat := by
  have htile := tile.isLt
  have hkind := kind.isLt
  cases slot <;> cases e <;> exact Nat.mod_eq_of_lt (by dsimp only; omega)

theorem flagsByte_toNat (f : Flags) :
    f.toByte.toNat = f.edge.toNat + 2 * f.fast.toNat + 4 * f.defect.toNat + 8 * f.held.toNat + 16 * f.tiltSat.toNat
      + 32 * f.tiltAbsent.toNat + 64 * f.clampedPos.toNat + 128 * f.clampedPressure.toNat := by
  refine Nat.mod_eq_of_lt ?_
  have hbit := Bool.toNat_le
  linarith [hbit f.edge, hbit f.fast, hbit f.defect, hbit f.held, hbit f.tiltSat, hbit f.tiltAbsent, hbit f.clampedPos,
    hbit f.clampedPressure]

theorem stateByte_toNat (contact : Bool) (buttons : Buttons) :
    (BitVec.ofNat 8 (contact.toNat + 2 * buttons.code)).toNat
      = contact.toNat + 2 * (match buttons with | .none => 0 | .lower => 1 | .upper => 2 | .both => 3) := by
  cases contact <;> cases buttons <;> rfl

/-! ## The bytes of a place -/

variable (pl : Place)

/-- The sizes of a place's fields (table 9.8.2). -/
def placeSizes : List Nat := [4, 1, 1, 1, 1, 4, 4, 2, 2, 2, 2, 4, 2, 2, 2, 2]

theorem map_fieldSize_portFields : pl.portFields.map fieldSize = placeSizes := by
  obtain ⟨seq, tile, time, _ | _⟩ | _ := pl <;> rfl

theorem offsetOf_portFields (i : Nat) : offsetOf pl.portFields i = (placeSizes.take i).sum := by
  rw [offsetOf, List.map_take, map_fieldSize_portFields]

theorem length_portFields : pl.portFields.length = 16 := by
  rw [← List.length_map fieldSize, map_fieldSize_portFields]
  rfl

theorem placeBytes_length (format : Format) : (pl.bytes format order).length = format.length := by
  rw [Place.bytes, length_flatMap_fieldBytes, List.map_take, map_fieldSize_portFields]
  cases format <;> rfl

theorem placeBytes_full : pl.bytes .full order = pl.portFields.flatMap (Field.bytes order) := by
  unfold Place.bytes
  rw [List.take_of_length_le]
  exact (length_portFields pl).le

/-- A place whose format carries fewer fields is the beginning of one whose format carries more. -/
theorem placeBytes_begins {short long : Format} (h : short.fieldCount ≤ long.fieldCount) :
    pl.bytes short order <+: pl.bytes long order := by
  have htake : (pl.portFields.take long.fieldCount).take short.fieldCount = pl.portFields.take short.fieldCount := by
    rw [List.take_take, min_eq_left h]
  refine ⟨((pl.portFields.take long.fieldCount).drop short.fieldCount).flatMap (Field.bytes order), ?_⟩
  unfold Place.bytes
  rw [← List.flatMap_append, ← htake, List.take_append_drop]

/-- The number that stands at an offset of a place in FULL. -/
def placeNumber (offset size : Nat) : Nat := spelled order (((pl.bytes .full order).drop offset).take size)

/-- Field `i` of a place is the number at its offset of table 9.8.2. -/
theorem placeNumber_field (i : Nat) {f : Field} (hf : pl.portFields[i]? = some f) :
    placeNumber order pl (placeSizes.take i).sum (fieldSize f) = fieldValue f := by
  rw [placeNumber, placeBytes_full, ← offsetOf_portFields pl]
  exact spelled_at_offset order hf

theorem voidBytes_zero (n : Word) : ∀ b ∈ ((Place.void n).bytes .full order).drop 4, b = 0 := by
  have hdrop : ((Place.void n).bytes .full order).drop 4 = List.replicate 32 0 := by cases order <;> rfl
  rw [hdrop]
  exact fun b => List.eq_of_mem_replicate

theorem breakBytes_zero {r : Record} {cause : BreakCause} (hbody : r.body = .brk cause) :
    (∀ b ∈ (((Place.stroke r).bytes .full order).drop 7).take 17, b = 0)
    ∧ ∀ b ∈ ((Place.stroke r).bytes .full order).drop 28, b = 0 := by
  obtain ⟨seq, tile, time, body⟩ := r
  cases hbody
  have hmiddle : ((((Place.stroke ⟨seq, tile, time, .brk cause⟩).bytes .full order).drop 7).take 17)
      = List.replicate 17 0 := by cases order <;> rfl
  have hend : ((Place.stroke ⟨seq, tile, time, .brk cause⟩).bytes .full order).drop 28 = List.replicate 8 0 := by
    cases order <;> rfl
  rw [hmiddle, hend]
  exact ⟨fun b => List.eq_of_mem_replicate, fun b => List.eq_of_mem_replicate⟩

/-- Every place begins with its sequence. -/
theorem placeNumber_seq_void (n : Word) : placeNumber order (.void n) 0 4 = n.toNat :=
  placeNumber_field order (.void n) 0 rfl

theorem placeNumber_seq_time (r : Record) :
    placeNumber order (.stroke r) 0 4 = r.seq.toNat ∧ placeNumber order (.stroke r) 24 4 = r.time.toNat := by
  obtain ⟨seq, tile, time, kind, f | cause⟩ := r
  all_goals exact ⟨placeNumber_field order _ 0 (f := .u32 seq) rfl, placeNumber_field order _ 11 (f := .u32 time) rfl⟩

/-- The fields of a record that is no BREAK, in the order of table 9.8.2 after its sequence. -/
theorem portFields_stroke {r : Record} {kind : StrokeKind} {f : StrokeFields} (hbody : r.body = .stroke kind f) :
    (Place.stroke r).portFields =
      [.u32 r.seq, .byte (RecordBody.stroke kind f).kindCode, .u8 (toolByte f.slot f.kind f.toolEnd r.tile),
        .byte (f.contact.toNat + 2 * f.buttons.code), .u8 f.flags.toByte, .u32 (BitVec.ofNat 32 f.x),
        .u32 (BitVec.ofNat 32 f.y), .half f.pressure, .signed f.tiltX, .signed f.tiltY, .half f.tipAmp, .u32 r.time,
        .half f.colAmp, .signed f.colDx, .signed f.colDy, .half f.travel] := by
  obtain ⟨seq, tile, time, body⟩ := r
  cases hbody
  rfl

/-- The fields of a BREAK: those of its position and its pen read as zero (R102). -/
theorem portFields_brk {r : Record} {cause : BreakCause} : r.body = .brk cause →
    (Place.stroke r).portFields =
      [.u32 r.seq, .byte 4, .u8 (toolByte .s0 0 .tip r.tile),
        .byte (16 * (match cause with | .stopped => 1 | .halted => 2)), .byte 0, .u32 0, .u32 0, .half 0, .half 0, .half 0,
        .half 0, .u32 r.time, .half 0, .half 0, .half 0, .half 0] := by
  intro hbody
  obtain ⟨seq, tile, time, body⟩ := r
  cases hbody
  cases cause <;> rfl

theorem placeNumber_brk {r : Record} {cause : BreakCause} : r.body = .brk cause →
    placeNumber order (.stroke r) 4 1 = 4 ∧ placeNumber order (.stroke r) 5 1 = 64 * r.tile.toNat
    ∧ placeNumber order (.stroke r) 6 1 = 16 * (match cause with | .stopped => 1 | .halted => 2) := by
  intro hbody
  have field (i : Nat) {x : Field} (hx : (Place.stroke r).portFields[i]? = some x) := placeNumber_field order _ i hx
  rw [portFields_brk hbody] at field
  refine ⟨field 1 rfl, (field 2 rfl).trans ((toolByte_toNat _ _ _ _).trans (Nat.zero_add _)), (field 3 rfl).trans ?_⟩
  cases cause <;> rfl

/-- Settles O54: table 9.8.2 row by row, each field at the offset the fields before it give. -/
theorem recordPlaceBytes : Obligations.RecordPlaceBytes := by
  intro order pl
  refine ⟨fun format => ?_, placeBytes_begins order pl (by decide), placeBytes_begins order pl (by decide),
    fun n hn => ?_, fun r hr => ?_, fun r kind f hr hbody => ?_, fun r cause hr hbody => ?_⟩
  · rw [placeBytes_length]
    cases format <;> rfl
  · subst hn
    exact ⟨placeNumber_seq_void order n, voidBytes_zero order n⟩
  · subst hr
    exact placeNumber_seq_time order r
  · subst hr
    have field (i : Nat) {x : Field} (hx : (Place.stroke r).portFields[i]? = some x) := placeNumber_field order _ i hx
    rw [portFields_stroke hbody] at field
    have signed (i : Nat) {n : Int} (hx : (Place.stroke r).portFields[i]? = some (Field.signed n)) (hlow : -32768 ≤ n)
        (hhigh : n ≤ 32767) : (BitVec.ofNat 16 (placeNumber order (.stroke r) (placeSizes.take i).sum 2)).toInt = n := by
      rw [show 2 = fieldSize (Field.signed n) from rfl, placeNumber_field order _ i hx]
      exact toInt_signedField hlow hhigh
    rw [portFields_stroke hbody] at signed
    exact ⟨(field 1 rfl).trans (by cases kind <;> rfl), (field 2 rfl).trans (toolByte_toNat _ _ _ _),
      (field 3 rfl).trans (stateByte_toNat _ _), (field 4 rfl).trans (flagsByte_toNat _),
      fun h => (field 5 rfl).trans (fieldValue_word h), fun h => (field 6 rfl).trans (fieldValue_word h),
      fun h => (field 7 rfl).trans (fieldValue_half h), fun h => (field 10 rfl).trans (fieldValue_half h),
      fun h => (field 12 rfl).trans (fieldValue_half h), fun h => (field 15 rfl).trans (fieldValue_half h),
      signed 8 rfl, signed 9 rfl, signed 13 rfl, signed 14 rfl⟩
  · subst hr
    obtain ⟨hkind, htool, hstate⟩ := placeNumber_brk order hbody
    exact ⟨hkind, htool, hstate, breakBytes_zero order hbody⟩

end Sys2Proof.StrokeRing
end

section
/-!
PROOFS. A request taken in its transaction (O3): what the effect of a request leaves of the ports' lines.
-/

namespace Sys2Proof.StrokeRing

open Sys2Proof.Machine Sys2Proof.KindsAndCurves Sys2Proof.ScanEngine

variable (s t u : State) (p q : PortId) (e : Fin 4)

/-! ## The lines of the ports -/

/-- A port sends a response whose transaction has its full time left. -/
def responds (x : Port) : Prop := ∃ resp, x.framing = .response 2000 resp

/-- An event of port `q` waits at the front of the queue, to fall together with an append (R109). -/
def waitsAtRing (q : PortId) : Prop := ∃ j rest, s.pending = j :: rest ∧ atRing q j

/-- A port keeps its settings, lapse timer and MISO, and a request it is receiving unless `may`, when it then responds; a response
just begun stays one. -/
structure KeepsLine (may : Prop) (a b : Port) : Prop where
  line : a.sameLine b
  request : ∀ left rx, a.framing = .request left rx → b.framing = .request left rx ∨ may ∧ responds b
  response : responds a → responds b

/-- Both ports keep their lines, but for a request that waits to fall together with an append, and the queue is as it was. -/
structure KeepsLines (s t : State) : Prop where
  pending : t.pending = s.pending
  port : ∀ q, KeepsLine (waitsAtRing s q) (s.port q) (t.port q)

/-- A port changed in its cursor and its latched set alone. -/
def lineOnly (a b : Port) : Prop := b = { a with cursor := b.cursor, latched := b.latched }

theorem keepsLine_of_line {may : Prop} {a b : Port} (hline : a.sameLine b) (hframing : b.framing = a.framing) :
    KeepsLine may a b :=
  ⟨hline, fun _ _ h => .inl (hframing.trans h), fun ⟨resp, h⟩ => ⟨resp, hframing.trans h⟩⟩

theorem keepsLine_of_lineOnly {may : Prop} {a b : Port} (h : lineOnly a b) : KeepsLine may a b := by
  unfold lineOnly at h
  rw [h]
  exact keepsLine_of_line ⟨rfl, rfl, rfl⟩ rfl

theorem keepsLine_refl {may : Prop} (a : Port) : KeepsLine may a a := keepsLine_of_lineOnly rfl

theorem keepsLine_trans {may : Prop} {a b c : Port} (h : KeepsLine may a b) (k : KeepsLine may b c) : KeepsLine may a c := by
  obtain ⟨⟨hset, hmiso, hlapse⟩, hreq, hresp⟩ := h
  obtain ⟨⟨kset, kmiso, klapse⟩, kreq, kresp⟩ := k
  refine ⟨⟨kset.trans hset, kmiso.trans hmiso, klapse.trans hlapse⟩, fun left rx ha => ?_, fun ha => kresp (hresp ha)⟩
  obtain hb | ⟨hmay, hb⟩ := hreq left rx ha
  · exact kreq left rx hb
  · exact .inr ⟨hmay, kresp hb⟩

theorem lineOnly_of_portAppended {x : Bool} {a b : Port} (h : portAppended x a b) : lineOnly a b := by
  unfold portAppended at h
  rw [h]
  rfl

section Lines

variable {s t u}

theorem keepsLines_trans (h : KeepsLines s t) (k : KeepsLines t u) : KeepsLines s u := by
  refine ⟨k.pending.trans h.pending, fun q => keepsLine_trans (h.port q) ?_⟩
  have hk := k.port q
  rwa [waitsAtRing, h.pending] at hk

theorem keepsLines_of_lineOnly (hpending : t.pending = s.pending) (hport : ∀ q, lineOnly (s.port q) (t.port q)) :
    KeepsLines s t := ⟨hpending, fun q => keepsLine_of_lineOnly (hport q)⟩

/-- What changes neither the queue nor a port keeps the lines. -/
theorem keepsLines_of_eq (hpending : t.pending = s.pending) (h0 : t.port0 = s.port0) (h1 : t.port1 = s.port1) :
    KeepsLines s t := by
  have hport (q : PortId) : t.port q = s.port q := by
    cases q
    · exact h0
    · exact h1
  exact ⟨hpending, fun q => hport q ▸ keepsLine_refl _⟩

end Lines

theorem keepsLines_refl : KeepsLines s s := keepsLines_of_eq rfl rfl rfl

theorem keepsLines_setPort {x : Port} (hx : KeepsLine (waitsAtRing s q) (s.port q) x) : KeepsLines s (s.setPort q x) := by
  refine ⟨by cases q <;> rfl, fun r => ?_⟩
  rw [s.port_setPort q r]
  split
  · next hr => exact hr ▸ hx
  · exact keepsLine_refl _

theorem keepsLines_updLine {x : Port} (hx : lineOnly (s.port q) x) : KeepsLines s (s.setPort q x) :=
  keepsLines_setPort s q (keepsLine_of_lineOnly hx)

theorem keepsLines_raise (c : Cond) : KeepsLines s (s.raise q c) := keepsLines_updLine s q rfl

theorem keepsLines_raiseBoth (c : Cond) : KeepsLines s (s.raiseBoth c) :=
  keepsLines_trans (keepsLines_raise s .p0 c) (keepsLines_raise _ .p1 c)

theorem keepsLines_setCursor (c : Cursor) : KeepsLines s (s.setCursor q c) := keepsLines_updLine s q rfl

theorem keepsLines_setEntry (x : Option Held) : KeepsLines s (s.setEntry e x) := keepsLines_of_eq rfl rfl rfl

/-! ## The ring and what falls together with an append -/

theorem keepsLines_append (time : Time) (body : RecordBody) : KeepsLines s (s.append time body) :=
  keepsLines_of_lineOnly (by rw [recordsOnly_append s time body]) fun q =>
    lineOnly_of_portAppended (append_portLapped s q time body).2

theorem keepsLines_closeSlot (i : SlotId) (time : Time) : KeepsLines s (s.closeSlot i time) :=
  keepsLines_of_lineOnly (by rw [recordsOnly_closeSlot s time i]) fun q =>
    lineOnly_of_portAppended (closeSlot_port s q time i)

theorem keepsLines_flushRing : KeepsLines s s.flushRing := by
  refine keepsLines_of_lineOnly (by rw [s.ringOnly_flush]) fun q => ?_
  obtain ⟨capture, -, hport⟩ := flushRing_port s q
  rw [hport]
  rfl

/-- A request of the ring or of a cursor changes of the ports their cursors and latched sets. -/
theorem keepsLines_ringRequest {i : Instr} {f : State → Answer} (hi : ringRequest i = some (p, f)) :
    KeepsLines s (f s).state := by
  cases i <;> simp only [ringRequest, Option.some.injEq, Prod.mk.injEq, reduceCtorEq] at hi
  case flush => exact hi.2 ▸ keepsLines_flushRing s
  all_goals
    obtain ⟨rfl, rfl⟩ := hi
    simp only [State.answerRead, State.answerMark, State.answerRewind, State.answerCursorSetup]
    repeat' split
    all_goals first | exact keepsLines_setCursor s _ _ | exact keepsLines_refl s

/-- The request that a port's framing `y` completes: the port then responds, and the rest is kept. -/
theorem keepsLines_completed {f : State → Answer} {y : Framing} (hw : waitsAtRing s q) (hy : ∃ left rx, y = .request left rx)
    (hf : ∀ u, KeepsLines u (f u).state) :
    KeepsLines s ((s.setPort q { s.port q with framing := y }).onRequest q f) := by
  let v := s.setPort q { s.port q with framing := y }
  have hport (r : PortId) : v.port r = if r = q then { s.port q with framing := y } else s.port r := s.port_setPort q r _
  have hself : v.port q = { s.port q with framing := y } := by rw [hport, if_pos rfl]
  have hreceiving : v.receiving q = true := by
    obtain ⟨left, rx, rfl⟩ := hy
    rw [State.receiving, hself]
  have hpending : v.pending = s.pending := by cases q <;> rfl
  obtain ⟨hkept, hlines⟩ := hf v
  change KeepsLines s (v.onRequest q f)
  rw [State.onRequest_receiving v q f hreceiving]
  refine ⟨(show _ = (f v).state.pending by cases q <;> rfl).trans (hkept.trans hpending), fun r => ?_⟩
  have hline := hlines r
  rw [State.answered, State.port_setPort]
  split
  · next hr =>
    subst hr
    obtain ⟨hset, -, -⟩ := hline
    rw [hself] at hset
    exact ⟨hset, fun _ _ _ => .inr ⟨hw, _, rfl⟩, fun _ => ⟨_, rfl⟩⟩
  · next hr =>
    rw [hport, if_neg hr, waitsAtRing, hpending] at hline
    exact hline

/-- The event that the waiting command brings keeps the lines. -/
theorem keepsLines_ringEvent {i : Instr} {rest : List Instr} (hp : s.pending = i :: rest)
    (hi : s.ringEvent i = some (q, t)) : KeepsLines s t := by
  have hw : waitsAtRing s q := ⟨i, rest, hp, State.ringEvent_atRing hi⟩
  obtain rfl | rfl | rfl | ⟨j, f, hj, rfl⟩ | ⟨left, rx, got, j, f, -, hj, rfl⟩ := ringEvent_cases s t q hi
  · exact keepsLines_refl _
  · obtain heq | ⟨left, resp, k, done, hf, heq⟩ := readPlaceBegin_eq s q <;> rw [heq]
    · exact keepsLines_refl s
    · refine keepsLines_setPort s q ⟨⟨rfl, rfl, rfl⟩, fun _ _ h => (by cases hf.symm.trans h), fun ⟨_, h⟩ => ?_⟩
      cases hf.symm.trans h
      exact ⟨_, rfl⟩
  · obtain heq | ⟨left, resp, k, done, pl, hf, -, heq⟩ := readRecordComplete_eq s q <;> rw [heq]
    · exact keepsLines_refl s
    · exact keepsLines_setPort s q ⟨⟨rfl, rfl, rfl⟩, fun _ _ h => (by cases hf.symm.trans h), fun _ => ⟨_, rfl⟩⟩
  · cases hr : s.receiving q with
    | false =>
      rw [State.onRequest_not_receiving s q f hr]
      exact keepsLines_refl s
    | true =>
      have hrequest : ∃ left rx, (s.port q).framing = .request left rx := by
        unfold State.receiving at hr
        split at hr
        · next left rx hf => exact ⟨left, rx, hf⟩
        all_goals cases hr
      have hsame : s.setPort q { s.port q with framing := (s.port q).framing } = s := by cases q <;> rfl
      have h := keepsLines_completed s q hw hrequest fun u => keepsLines_ringRequest u q hj
      rwa [hsame] at h
  · exact keepsLines_completed s q hw ⟨_, got, rfl⟩ fun u => keepsLines_ringRequest u q hj

theorem takeFirst_all_busy {busy : List PortId} (hbusy : ∀ q, q ∈ busy) (l : List Instr) : State.takeFirst busy l s = s := by
  cases l with
  | nil => rfl
  | cons i rest =>
    unfold State.takeFirst
    split
    · rfl
    · next q t _ => rw [if_pos (by simpa using hbusy q)]

/-- Where port `p` has no part, at most the event at the front of the queue is taken. -/
theorem takeTogether_port :
    ∃ v n, s.takeTogether [p] = { v with choices := n }
      ∧ (v = s ∨ ∃ q i rest, s.pending = i :: rest ∧ s.ringEvent i = some (q, v)) := by
  unfold State.takeTogether
  cases hp : s.pending with
  | nil => exact ⟨s, s.choices, rfl, .inl rfl⟩
  | cons i rest =>
    unfold State.takeFirst
    split
    · exact ⟨s, s.choices, rfl, .inl rfl⟩
    · next q t he =>
      split
      · exact ⟨s, s.choices, rfl, .inl rfl⟩
      · next hq =>
        split
        · refine ⟨t, t.choices + 1, takeFirst_all_busy _ (fun r => ?_) rest, .inr ⟨q, i, rest, rfl, he⟩⟩
          obtain rfl | rfl := PortId.eq_or_other q r
          · exact List.mem_cons_self
          · have hne : q ≠ p := by simpa using hq
            have : p = q.other := (PortId.eq_or_other q p).resolve_left hne.symm
            simp [this]
        · exact ⟨s, s.choices + 1, rfl, .inl rfl⟩

theorem keepsLines_takeTogether : KeepsLines s (s.takeTogether [p]) := by
  obtain ⟨v, n, heq, hv⟩ := takeTogether_port s p
  have hcount : KeepsLines v { v with choices := n } := keepsLines_of_eq rfl rfl rfl
  rw [heq]
  obtain rfl | ⟨q, i, rest, hp, hi⟩ := hv
  · exact hcount
  · exact keepsLines_trans (keepsLines_ringEvent s v q hp hi) hcount

theorem keepsLines_toEngine (x : Engine) : KeepsLines s (s.toEngine x) :=
  keepsLines_trans (t := { s with engine := x }) (keepsLines_of_eq rfl rfl rfl) (keepsLines_raiseBoth _ _)

theorem keepsLines_stopFrames (r : Run) (cause : BreakCause) (x : Engine) : KeepsLines s (s.stopFrames p r cause x) := by
  have hclosed (u : State) (i : SlotId) : KeepsLines u ((u.closeSlot i r.start).takeTogether [p]) :=
    keepsLines_trans (keepsLines_closeSlot u i r.start) (keepsLines_takeTogether _ p)
  exact keepsLines_trans (keepsLines_trans (keepsLines_trans (hclosed s .s0) (hclosed _ .s1)) (keepsLines_append _ _ _))
    (keepsLines_toEngine _ x)

/-! ## The hold and run sets (R34 to R38) -/

theorem keepsLines_startCheck : KeepsLines s s.startCheck := by
  obtain ⟨-, -, -, -, hport, hframe⟩ := startCheck_checkStarted s
  refine keepsLines_of_lineOnly (by rw [hframe]) fun q => ?_
  rw [hport]
  rfl

theorem keepsLines_sets (hold run : PortSet) : KeepsLines s { s with hold := hold, run := run } := keepsLines_of_eq rfl rfl rfl

theorem keepsLines_holdEffect : KeepsLines s (s.holdEffect p) := by
  have hjoined : KeepsLines s { s with hold := s.hold.insert p } := keepsLines_sets s _ s.run
  unfold State.holdEffect
  dsimp only
  split
  · exact hjoined
  · refine keepsLines_trans hjoined (keepsLines_trans ?_ (keepsLines_toEngine _ _))
    exact keepsLines_of_eq rfl rfl rfl
  · exact keepsLines_trans hjoined (keepsLines_toEngine _ _)
  · exact keepsLines_trans hjoined (keepsLines_stopFrames _ p _ _ _)

theorem keepsLines_releaseEffect : KeepsLines s (s.releaseEffect p) := by
  have hleft : KeepsLines s { s with hold := s.hold.erase p } := keepsLines_sets s _ s.run
  unfold State.releaseEffect
  dsimp only
  split
  · exact keepsLines_trans hleft (keepsLines_startCheck _)
  · exact hleft

theorem keepsLines_runEffect : KeepsLines s (s.runEffect p) := by
  have hjoined : KeepsLines s { s with run := s.run.insert p } := keepsLines_sets s s.hold _
  unfold State.runEffect
  dsimp only
  split
  · refine keepsLines_trans hjoined (keepsLines_trans ?_ (keepsLines_raiseBoth _ .engine))
    exact keepsLines_of_eq rfl rfl rfl
  all_goals exact hjoined

theorem keepsLines_stopEffect : KeepsLines s (s.stopEffect p) := by
  have hleft : KeepsLines s { s with run := s.run.erase p } := keepsLines_sets s s.hold _
  unfold State.stopEffect
  dsimp only
  split
  · split
    · exact keepsLines_trans hleft (keepsLines_stopFrames _ p _ _ _)
    · exact hleft
  all_goals exact hleft

theorem keepsLines_withdraw : KeepsLines s (s.withdraw p) := by
  have hleft : KeepsLines s { s with hold := s.hold.erase p, run := s.run.erase p } := keepsLines_sets s _ _
  obtain ⟨-, -, heq⟩ | heq | ⟨-, -, -, heq⟩ | ⟨r, -, -, heq⟩ := s.withdraw_cases p <;> rw [heq]
  · exact keepsLines_refl s
  · exact hleft
  · exact keepsLines_trans hleft (keepsLines_startCheck _)
  · exact keepsLines_trans hleft (keepsLines_stopFrames _ p r _ _)

/-! ## Captures and configuration -/

theorem keepsLine_updXfer {may : Prop} (x : Port) (f : Xfer → Xfer) : KeepsLine may x (x.updXfer f) := by
  unfold Port.updXfer
  split
  · next left resp hf =>
    refine ⟨⟨rfl, rfl, rfl⟩, fun _ _ h => (by cases hf.symm.trans h), fun ⟨_, h⟩ => ?_⟩
    cases hf.symm.trans h
    exact ⟨_, rfl⟩
  all_goals exact keepsLine_refl x

theorem keepsLines_released {gone : Fin 4 → Bool} (h : released s t gone) : KeepsLines s t := by
  obtain ⟨-, hport, hrest⟩ := h
  refine ⟨by rw [hrest], fun q => ?_⟩
  rw [hport]
  exact keepsLine_updXfer _ _

theorem keepsLines_dropClaims : KeepsLines s (s.dropClaims p) := by
  have horphan (u : State) : KeepsLines u (u.orphanCurves p) := keepsLines_of_eq rfl rfl rfl
  exact keepsLines_trans (keepsLines_trans (keepsLines_withdraw s p) (keepsLines_released _ _ (releaseOwned_released _ p)))
    (horphan _)

theorem keepsLines_releaseEntry : KeepsLines s (s.releaseEntry e) :=
  keepsLines_released s _ (released_releaseEntry s s (released_refl s) e)

theorem keepsLines_triggerHeld (h : Held) : KeepsLines s (s.triggerHeld e h) := by
  unfold State.triggerHeld
  dsimp only
  split
  · split
    · exact keepsLines_trans (keepsLines_setEntry s e _) (keepsLines_raise _ _ _)
    · exact keepsLines_setEntry s e _
  · exact keepsLines_refl s

theorem keepsLines_startCapture (g : Trigger) (first : Word) (second : Half) (drive : Byte) (bank : Fin 8) :
    KeepsLines s (s.startCapture p g first second drive e bank) := by
  unfold State.startCapture
  cases g with
  | immediate => exact keepsLines_triggerHeld s e _
  | sync =>
    dsimp only
    split <;> exact keepsLines_of_eq rfl rfl rfl
  | contact => exact keepsLines_setEntry s e _
  | absolute => exact keepsLines_setEntry s e _

theorem keepsLines_geometryFlush : KeepsLines s s.geometryFlush := by
  have hclamp (u : State) : KeepsLines u (u.forPorts State.clampThresholds) :=
    keepsLines_trans (keepsLines_setCursor u .p0 _) (keepsLines_setCursor _ .p1 _)
  have hstart : KeepsLines s { s with ring := { s.ring with writePos := 0 } } := keepsLines_of_eq rfl rfl rfl
  exact keepsLines_trans hstart (keepsLines_trans (keepsLines_flushRing _) (hclamp _))

theorem keepsLines_storeItem (i : Item) (v : Nat) : KeepsLines s (s.storeItem i v) := by
  have hitems (x : Items) : KeepsLines s { s with items := x } := keepsLines_of_eq rfl rfl rfl
  unfold State.storeItem
  dsimp only
  split
  · exact keepsLines_trans (hitems _) (keepsLines_geometryFlush _)
  · split
    · exact keepsLines_of_eq rfl rfl rfl
    · exact hitems _

theorem keepsLines_setCurve (c : Fin 4) (x : Curve) : KeepsLines s (s.setCurve c x) := keepsLines_of_eq rfl rfl rfl

/-! ## Requests -/

/-- PORT SETUP and PORT RESET, which alone set the line of their port (R152, R157). -/
def setsLine : Instr → Bool
  | .portSetup _ _ _ _ _ | .portReset _ => true
  | _ => false

/-- The effect of every other request keeps the lines of both ports. -/
theorem requestAnswer_keepsLines {i : Instr} (hi : setsLine i = false) : KeepsLines s (requestAnswer i s).state := by
  have hstay := keepsLines_refl s
  cases i
  case portSetup | portReset => cases hi
  case read p n => exact keepsLines_ringRequest s p (i := .read p n) rfl
  case mark p => exact keepsLines_ringRequest s p (i := .mark p) rfl
  case rewind p => exact keepsLines_ringRequest s p (i := .rewind p) rfl
  case cursorSetup p mode ready margin => exact keepsLines_ringRequest s p (i := .cursorSetup p mode ready margin) rfl
  case flush p => exact keepsLines_flushRing s
  case ack p conds => exact keepsLines_updLine s p rfl
  case hold p => exact keepsLines_holdEffect s p
  case release p =>
    simp only [requestAnswer, State.answerRelease]
    split
    · exact keepsLines_releaseEffect s p
    · exact hstay
  case run p => exact keepsLines_runEffect s p
  case stop p => exact keepsLines_stopEffect s p
  case configWrite p id value =>
    simp only [requestAnswer, State.answerConfigWrite]
    repeat' split
    all_goals first | exact hstay | exact keepsLines_storeItem s _ _
  case configRead p id => exact (answerConfigRead_state s id).symm ▸ hstay
  case curveRead p number => exact (answerCurveRead_state s number).symm ▸ hstay
  case curveBegin p number count =>
    simp only [requestAnswer, State.answerCurveBegin]
    repeat' split
    all_goals first | exact hstay | exact keepsLines_setCurve s _ _
  case curveKnot p number input output =>
    simp only [requestAnswer, State.answerCurveKnot]
    repeat' split
    all_goals first | exact hstay | exact keepsLines_setCurve s _ _
  case capture p trigger first second drive =>
    simp only [requestAnswer, State.answerCapture]
    repeat' split
    all_goals first | exact hstay | exact keepsLines_startCapture s p _ _ _ _ _ _
  case captureRead p entry n fromStart =>
    obtain ⟨rc, heq⟩ | ⟨e, h, pos, k, reply, -, -, -, -, -, heq⟩ := answerCaptureRead_cases s p entry n fromStart
    · exact (congrArg Answer.state heq).symm ▸ hstay
    · exact (congrArg Answer.state heq).symm ▸ keepsLines_setEntry s e _
  case captureRelease p entry =>
    simp only [requestAnswer, State.answerCaptureRelease]
    repeat' split
    all_goals first | exact hstay | exact keepsLines_releaseEntry s _
  all_goals exact hstay

/-- PORT RESET sets the settings, lapse timer, cursor and latched set of its port, and raises PEER on the other (R157). -/
theorem answerPortReset_line :
    ((s.answerPortReset p).state.port p).miso = (s.port p).miso
    ∧ KeepsLine (waitsAtRing s p.other) (s.port p.other) ((s.answerPortReset p).state.port p.other) := by
  let v := s.dropClaims p
  let reset := v.updPort p fun q => q.afterPortReset v.ring.w
  have hself : (reset.raise p.other .peer).port p = (v.port p).afterPortReset v.ring.w := by
    have h := reset.raise_other p.other .peer
    rwa [PortId.other_other, State.updPort_same] at h
  have hother : reset.port p.other = v.port p.other := v.updPort_other p _
  obtain ⟨-, hport⟩ := keepsLines_dropClaims s p
  have hraised : KeepsLine (waitsAtRing s p.other) (v.port p.other) ((reset.raise p.other .peer).port p.other) := by
    rw [State.raise_same, hother]
    exact keepsLine_of_lineOnly rfl
  obtain ⟨-, hmiso, -⟩ := (hport p).line
  exact ⟨(congrArg Port.miso hself).trans hmiso, keepsLine_trans (hport p.other) hraised⟩

/-- A request leaves the MISO of its port, and the line of the other. -/
theorem requestAnswer_line {i : Instr} (hi : i.requestPort = some p) :
    ((requestAnswer i s).state.port p).miso = (s.port p).miso
    ∧ KeepsLine (waitsAtRing s p.other) (s.port p.other) ((requestAnswer i s).state.port p.other) := by
  have hkept (h : setsLine i = false) : ((requestAnswer i s).state.port p).miso = (s.port p).miso
      ∧ KeepsLine (waitsAtRing s p.other) (s.port p.other) ((requestAnswer i s).state.port p.other) := by
    obtain ⟨-, hport⟩ := requestAnswer_keepsLines s h
    obtain ⟨-, hmiso, -⟩ := (hport p).line
    exact ⟨hmiso, hport p.other⟩
  cases i
  case portSetup q format order lapse enable =>
    cases hi
    simp only [requestAnswer, State.answerPortSetup]
    split
    · simp only [State.updPort_same, State.updPort_other]
      exact ⟨trivial, keepsLine_refl _⟩
    · exact ⟨rfl, keepsLine_refl _⟩
  case portReset q =>
    cases hi
    exact answerPortReset_line s p
  all_goals exact hkept rfl

/-- Settles O3: a request is its answer, taken on its port. -/
theorem requestTakenInTransaction : Obligations.RequestTakenInTransaction := by
  intro i s p hwf hp
  have hexec : exec i s = .next (s.onRequest p (requestAnswer i)) := by
    rw [exec_eq_runRequest s p i hp]
    obtain heq | ⟨code, -, hbad, -⟩ := runRequest_eq s p hp
    · exact heq
    · rw [hwf] at hbad
      cases hbad
  rw [hexec]
  refine ⟨fun hr => by rw [State.onRequest_not_receiving s p _ hr], fun hr => ?_⟩
  rw [State.onRequest_receiving s p _ hr]
  obtain ⟨hmiso, hline, hrequest, -⟩ := requestAnswer_line s p hp
  refine ⟨_, _, rfl, by rw [State.answered, State.setPort_same], ?_, ?_, rfl, ?_, ?_, fun left rx hf => ?_⟩
  · rw [State.answered, State.setPort_same]
  · rw [State.answered, State.setPort_same]
  · rw [State.answered, State.setPort_same]
    exact hmiso
  · rw [State.answered_other]
    exact hline
  · rw [State.answered_other]
    exact hrequest left rx hf

end Sys2Proof.StrokeRing
end

section
/-!
PROOFS. READ (R115, R116, R120): the header of a SEQUENTIAL READ, and the records a LATEST READ picks (O11, O13).
-/

namespace Sys2Proof.ClientCursors

open Sys2Proof.Machine Sys2Proof.StrokeRing Sys2Proof.KindsAndCurves

variable (s : State) (p : PortId)

/-! ## The records from next to W - 1 -/

/-- Under the law of the ring, each place of O..W - 1 holds at most the record of its own sequence. -/
theorem seq_of_ringRead_ahead (h : s.ringLaw) {a : Seq} {i : Nat} {r : Record} (hi : i < 2 ^ 32)
    (hr : s.ringRead (a + BitVec.ofNat 32 i) = some r) : seqDist a r.seq = i := by
  obtain ⟨-, hseq⟩ := seq_of_ringRead s h hr
  rw [hseq, seqDist_add a hi]

theorem mem_unread (h : s.ringLaw) {r : Record} :
    r ∈ s.unread p ↔ s.ringRead r.seq = some r ∧ seqDist (s.port p).cursor.next r.seq < s.lag p := by
  simp only [State.unread, List.mem_filterMap, List.mem_range]
  constructor
  · rintro ⟨i, hi, hr⟩
    have hplace := seq_of_ringRead_ahead s h (hi.trans (seqDist_lt _ _)) hr
    obtain ⟨-, hseq⟩ := seq_of_ringRead s h hr
    exact ⟨hseq ▸ hr, by rwa [hplace]⟩
  · rintro ⟨hr, hlt⟩
    exact ⟨_, hlt, by rwa [add_seqDist]⟩

/-- The records from next to W - 1 stand in ascending sequence order. -/
theorem unread_ascending (h : s.ringLaw) : (s.unread p).Pairwise fun a b =>
    seqDist (s.port p).cursor.next a.seq < seqDist (s.port p).cursor.next b.seq := by
  rw [State.unread, List.pairwise_filterMap]
  refine List.Pairwise.imp_of_mem (fun {i j} hi hj hij a ha b hb => ?_) List.pairwise_lt_range
  rw [List.mem_range] at hi hj
  rwa [seq_of_ringRead_ahead s h (hi.trans (seqDist_lt _ _)) ha, seq_of_ringRead_ahead s h (hj.trans (seqDist_lt _ _)) hb]

/-! ## The newest of each class -/

/-- Some later record of the list has the class of `r`. -/
theorem any_pickClass_iff {later : List Record} {r : Record} :
    (later.any fun q => q.pickClass == r.pickClass) = true ↔ ∃ q ∈ later, q.pickClass = r.pickClass := by
  simp

theorem newestOfClass_sublist (rs : List Record) : (newestOfClass rs).Sublist rs := by
  induction rs with
  | nil => exact .slnil
  | cons r later ih =>
    rw [newestOfClass]
    split
    · exact ih.cons r
    · exact ih.cons_cons r

/-- In an ascending list, the newest of each class are those that no record further on follows in their class. -/
theorem mem_newestOfClass {place : Record → Nat} {rs : List Record} (h : rs.Pairwise fun a b => place a < place b)
    {r : Record} :
    r ∈ newestOfClass rs ↔ r ∈ rs ∧ ∀ q ∈ rs, place r < place q → q.pickClass ≠ r.pickClass := by
  induction rs with
  | nil => simp [newestOfClass]
  | cons a later ih =>
    obtain ⟨hfirst, hlater⟩ := List.pairwise_cons.mp h
    have hold : r ∈ later → ¬ place r < place a := fun hr => not_lt.mpr (hfirst r hr).le
    have hskip (hr : r ∈ later) : (∀ q ∈ a :: later, place r < place q → q.pickClass ≠ r.pickClass)
        ↔ ∀ q ∈ later, place r < place q → q.pickClass ≠ r.pickClass := by
      simp [hold hr]
    have hhead : (∀ q ∈ a :: later, place a < place q → q.pickClass ≠ a.pickClass)
        ↔ ¬ ∃ q ∈ later, q.pickClass = a.pickClass := by
      simp only [List.forall_mem_cons, lt_irrefl, false_implies, true_and, not_exists, not_and]
      exact forall₂_congr fun q hq => by simp [hfirst q hq]
    rw [newestOfClass]
    split
    · next hany =>
      rw [any_pickClass_iff] at hany
      rw [ih hlater, List.mem_cons]
      constructor
      · rintro ⟨hr, hlast⟩
        exact ⟨.inr hr, (hskip hr).mpr hlast⟩
      · rintro ⟨rfl | hr, hlast⟩
        · exact absurd hany (hhead.mp hlast)
        · exact ⟨hr, (hskip hr).mp hlast⟩
    · next hany =>
      rw [any_pickClass_iff] at hany
      rw [List.mem_cons, ih hlater, List.mem_cons]
      constructor
      · rintro (rfl | ⟨hr, hlast⟩)
        · exact ⟨.inl rfl, hhead.mpr hany⟩
        · exact ⟨.inr hr, (hskip hr).mpr hlast⟩
      · rintro ⟨rfl | hr, hlast⟩
        · exact .inl rfl
        · exact .inr ⟨hr, (hskip hr).mp hlast⟩

theorem newestOfClass_nodup (rs : List Record) : ((newestOfClass rs).map Record.pickClass).Nodup := by
  induction rs with
  | nil => exact List.nodup_nil
  | cons r later ih =>
    rw [newestOfClass]
    split
    · exact ih
    · next hany =>
      rw [any_pickClass_iff] at hany
      rw [List.map_cons, List.nodup_cons]
      refine ⟨fun hmem => hany ?_, ih⟩
      obtain ⟨q, hq, hclass⟩ := List.mem_map.mp hmem
      exact ⟨q, (newestOfClass_sublist later).subset hq, hclass⟩

/-- There are three classes: S0, S1 and the BREAKs. -/
theorem newestOfClass_length (rs : List Record) : (newestOfClass rs).length ≤ 3 := by
  have hclasses (c : PickClass) : c ∈ [PickClass.slot .s0, .slot .s1, .brk] := by
    rcases c with (_ | _) | _ <;> decide
  rw [← List.length_map Record.pickClass]
  exact ((newestOfClass_nodup rs).subperm fun c _ => hclasses c).length_le

/-! ## The newest `n` of them -/

theorem newest_length (n : Nat) (rs : List Record) : (newest n rs).length = min n rs.length := by
  rw [newest, List.length_drop]
  omega

theorem newest_sublist (n : Nat) (rs : List Record) : (newest n rs).Sublist rs := List.drop_sublist _ _

/-- What is left out for want of places is older than all that is kept. -/
theorem mem_newest_or_older {place : Record → Nat} {rs : List Record} (h : rs.Pairwise fun a b => place a < place b)
    (n : Nat) {r : Record} (hr : r ∈ rs) :
    r ∈ newest n rs ∨ n < rs.length ∧ ∀ q ∈ newest n rs, place r < place q := by
  rw [← List.take_append_drop (rs.length - n) rs] at hr h
  obtain ⟨-, -, hbefore⟩ := List.pairwise_append.mp h
  obtain hold | hkept := List.mem_append.mp hr
  · have hpos := List.length_pos_of_mem hold
    rw [List.length_take] at hpos
    exact .inr ⟨by omega, hbefore r hold⟩
  · exact .inl hkept

/-! ## The two modes -/

theorem okUnless_decide (c : Prop) [Decidable c] : ResultCode.okUnless (decide c) = if c then .clamped else .ok := by
  by_cases h : c <;> simp [ResultCode.okUnless, h]

/-- A READ reports CLAMPED for more than 64 records (R115). -/
theorem readReply_eq (n : Byte) (count skipped : Nat) (records : List Record) : readReply n count skipped records
    = { result := if 64 < n.toNat then .clamped else .ok, fields := [.byte count, .half skipped], records := records } := by
  rw [readReply, okUnless_decide, maxRead]

theorem answerRead_sequential (n : Byte) (hmode : (s.port p).cursor.mode = .sequential) :
    let c := (s.port p).cursor
    let k := min (min n.toNat 64) (seqDist c.next s.ring.w)
    s.answerRead p n
      = { state := s.setCursor p { c with skipped := 0 }, reply := readReply n k c.skipped [], xfer := .read k 0 none } := by
  unfold State.answerRead
  dsimp only
  split
  · rfl
  · next h => cases hmode.symm.trans h

theorem answerRead_latest (n : Byte) (hmode : (s.port p).cursor.mode = .latest) :
    let c := (s.port p).cursor
    let kept := newest (min n.toNat 64) (newestOfClass (s.unread p))
    s.answerRead p n
      = { state := s.setCursor p { c with skipped := 0, next := s.ring.w }
          reply := readReply n kept.length c.skipped kept } := by
  unfold State.answerRead
  dsimp only
  split
  · next h => cases hmode.symm.trans h
  · rfl

/-- Settles O11: the answer of a SEQUENTIAL READ. -/
theorem sequentialReadHeader : Obligations.SequentialReadHeader := by
  intro s p n hr hmode c k
  refine congrArg Host.Outcome.next ?_
  rw [State.onRequest_receiving s p _ hr, answerRead_sequential s p n hmode, readReply_eq]

/-- Settles O13: of the newest of each class, which are at most three, the newest `n`. -/
theorem latestReadPicksNewest : Obligations.LatestReadPicksNewest := by
  intro s p n hlaw hr hmode c place last
  obtain ⟨-, -, hring, -⟩ := hlaw
  have hascending := unread_ascending s p hring
  let picked := newestOfClass (s.unread p)
  have hpicked : picked.Pairwise fun a b => place a.seq < place b.seq := hascending.sublist (newestOfClass_sublist _)
  have hlast (r : Record) : r ∈ picked ↔ last r := by
    simp only [picked, last, mem_newestOfClass hascending, mem_unread s p hring]
    constructor
    · rintro ⟨⟨hread, hlt⟩, hnewest⟩
      exact ⟨hread, hlt, fun q hq hlater hqw => hnewest q ⟨hq, hqw⟩ hlater⟩
    · rintro ⟨hread, hlt, hnewest⟩
      exact ⟨⟨hread, hlt⟩, fun q ⟨hq, hqw⟩ hlater => hnewest q hq hlater hqw⟩
  have hthree : picked.length ≤ 3 := newestOfClass_length _
  have hlength : (newest (min n.toNat 64) picked).length = min (min n.toNat 64) picked.length := newest_length _ _
  refine ⟨newest (min n.toNat 64) picked, congrArg Host.Outcome.next ?_, by omega, by omega,
    hpicked.sublist (newest_sublist _ _), fun r hk => (hlast r).mp ((newest_sublist _ _).subset hk), fun r hl => ?_⟩
  · rw [State.onRequest_receiving s p _ hr, answerRead_latest s p n hmode, readReply_eq]
  · obtain hkept | ⟨hmore, holder⟩ := mem_newest_or_older hpicked (min n.toNat 64) ((hlast r).mpr hl)
    · exact .inl hkept
    · exact .inr ⟨by omega, holder⟩

end Sys2Proof.ClientCursors
end

section
/-!
PROOFS. MARK, REWIND and the two setups (R121, R122, R125, R152, R154), and the two-byte form of a set of conditions with
attention (R123, R124, R159 to R161) (O14, O15, O17).
-/

namespace Sys2Proof.ClientCursors

open Sys2Proof.Machine Sys2Proof.KindsAndCurves

variable (s : State) (p : PortId)

/-! ## MARK and REWIND -/

theorem answerRewind_unmarked (h : (s.port p).cursor.mark = none) :
    s.answerRewind p = { state := s, reply := { result := .noMark, fields := [.u32 0, .half 0] } } := by
  unfold State.answerRewind
  dsimp only
  split
  · rfl
  · next h' => cases h.symm.trans h'

/-- With a mark, REWIND finds it within the ring or goes back to O (R122). -/
theorem answerRewind_marked {m : Seq} (h : (s.port p).cursor.mark = some m) :
    let c := (s.port p).cursor
    let lost := addSkipped c.skipped (seqDist m s.ring.w - s.count)
    s.answerRewind p =
      if seqDist m s.ring.w ≤ s.count then
        { state := s.setCursor p { c with next := m }, reply := { result := .ok, fields := [.u32 m, .half c.skipped] } }
      else
        { state := s.setCursor p { c with next := s.ring.o, skipped := lost }
          reply := { result := .partialDone, fields := [.u32 s.ring.o, .half lost] } } := by
  unfold State.answerRewind
  dsimp only
  split
  · next h' => cases h.symm.trans h'
  · next h' =>
    cases h.symm.trans h'
    rfl

/-- Settles O14: the answers of MARK and REWIND, by the mark and its distance from W. -/
theorem markAndRewind : Obligations.MarkAndRewind := by
  intro s p hr c
  refine ⟨congrArg Host.Outcome.next ?_, fun hm => congrArg Host.Outcome.next ?_,
    fun m hm hd => congrArg Host.Outcome.next ?_, fun m hm hd => congrArg Host.Outcome.next ?_⟩
  · exact State.onRequest_receiving s p _ hr
  · exact onRequest_answered s p _ _ hr (answerRewind_unmarked s p hm)
  · rw [State.onRequest_receiving s p _ hr, answerRewind_marked s p hm]
    simp only [if_pos (show seqDist m s.ring.w ≤ s.count from hd)]
    rfl
  · rw [State.onRequest_receiving s p _ hr, answerRewind_marked s p hm]
    simp only [if_neg (show ¬ seqDist m s.ring.w ≤ s.count from not_le.mpr hd)]
    rfl

/-! ## Codes of the setups (section 9.8) -/

theorem byte_toNat (b : Byte) : Field.byte b.toNat = .u8 b := by
  rw [Field.byte, BitVec.ofNat_toNat, BitVec.setWidth_eq]

theorem cursorMode_ofByte {b : Byte} {m : CursorMode} (h : b.toNat = m.code) : CursorMode.ofByte b = some m := by
  unfold CursorMode.ofByte
  rw [h]
  cases m <;> rfl

theorem cursorMode_ofByte_none {b : Byte} (h : 2 ≤ b.toNat) : CursorMode.ofByte b = none := by
  unfold CursorMode.ofByte
  split
  case h_3 => rfl
  all_goals omega

theorem format_ofByte {b : Byte} {f : Format} (h : b.toNat = f.code) : Format.ofByte b = some f := by
  unfold Format.ofByte
  rw [h]
  cases f <;> rfl

theorem format_ofByte_none {b : Byte} (h : 3 ≤ b.toNat) : Format.ofByte b = none := by
  unfold Format.ofByte
  split
  case h_4 => rfl
  all_goals omega

theorem byteOrderOf_code {b : Byte} {o : ByteOrder} (h : b.toNat = byteOrderCode o) : byteOrderOf b = some o := by
  unfold byteOrderOf
  rw [h]
  cases o <;> rfl

theorem byteOrderOf_none {b : Byte} (h : 2 ≤ b.toNat) : byteOrderOf b = none := by
  unfold byteOrderOf
  split
  case h_3 => rfl
  all_goals omega

/-! ## Sets of conditions (R159) -/

/-- The conditions of a set in the order of their bits: READY to PEER. -/
def conditions (a : CondSet) : List Bool :=
  let l := a.latched
  [a.ready, a.nearFull, l.lapped, l.prox, l.capture, l.engine, l.check, l.quiet, l.ring, l.lapse, l.peer]

theorem length_conditions (a : CondSet) : (conditions a).length = 11 := rfl

/-- A set has one bit for each condition, and no others. -/
theorem toHalf_getLsbD (a : CondSet) (i : Nat) : a.toHalf.getLsbD i = (conditions a).getD i false := by
  change (BitVec.setWidth 16 (BitVec.ofBoolListLE (conditions a))).getLsbD i = _
  rw [BitVec.getLsbD_setWidth, BitVec.getLsbD_ofBoolListLE]
  by_cases hi : i < 16
  · simp [hi]
  · rw [List.getD_eq_default _ _ (by rw [length_conditions]; omega)]
    simp [hi]

theorem conditions_ofHalf (v : Half) : conditions (CondSet.ofHalf v) = (List.range 11).map v.getLsbD := rfl

/-- Of a two-byte field the bits beyond the eleven are ignored. -/
theorem toHalf_ofHalf (v : Half) : (CondSet.ofHalf v).toHalf = v &&& 0x07FF#16 := by
  refine BitVec.eq_of_getLsbD_eq fun i hi => ?_
  rw [toHalf_getLsbD, conditions_ofHalf, BitVec.getLsbD_and]
  interval_cases i <;> simp

/-- Two sets meet where a condition is in both. -/
theorem meets_eq_any (a b : CondSet) :
    a.meets b = (List.range 11).any fun i => (conditions a).getD i false && (conditions b).getD i false := by
  simp [CondSet.meets, Latched.meets, conditions, List.range, List.range.loop, Bool.or_assoc]

/-- Two sets meet where their two-byte forms have a bit in common. -/
theorem meets_iff (a b : CondSet) : a.meets b = true ↔ a.toHalf &&& b.toHalf ≠ 0#16 := by
  have hbit (i : Nat) : (a.toHalf &&& b.toHalf).getLsbD i = ((conditions a).getD i false && (conditions b).getD i false) := by
    rw [BitVec.getLsbD_and, toHalf_getLsbD, toHalf_getLsbD]
  rw [meets_eq_any, List.any_eq_true]
  constructor
  · rintro ⟨i, -, hi⟩ hzero
    rw [← hbit, hzero, BitVec.getLsbD_zero] at hi
    cases hi
  · intro hne
    by_contra hnone
    refine hne (BitVec.eq_of_getLsbD_eq fun i _ => ?_)
    rw [hbit, BitVec.getLsbD_zero]
    by_cases hi : i < 11
    · exact Bool.eq_false_iff.mpr fun hboth => hnone ⟨i, List.mem_range.mpr hi, hboth⟩
    · rw [List.getD_eq_default _ _ (by rw [length_conditions]; omega), Bool.false_and]

/-! ## The setups -/

/-- CURSOR SETUP with a code that names a mode (R125). -/
theorem answerCursorSetup_named {mode : Byte} {ready margin : Half} {m : CursorMode} (h : mode.toNat = m.code) :
    let r := max 1 (min ready.toNat s.capacity)
    let f := min margin.toNat (s.capacity - 1)
    s.answerCursorSetup p mode ready margin
      = { state := s.setCursor p { (s.port p).cursor with mode := m, ready := r, margin := f }
          reply := { result := if r = ready.toNat ∧ f = margin.toNat then .ok else .clamped
                     fields := [.u8 mode, .half r, .half f] } } := by
  intro r f
  have hready : clampNat 1 s.capacity ready.toNat = r := rfl
  have hmargin : clampNat 0 (s.capacity - 1) margin.toNat = f := Nat.zero_max _
  have hresult : ResultCode.okUnless (r != ready.toNat || f != margin.toNat)
      = if r = ready.toNat ∧ f = margin.toNat then .ok else .clamped := by
    by_cases hr : r = ready.toNat <;> by_cases hf : f = margin.toNat <;> simp [ResultCode.okUnless, hr, hf]
  simp only [State.answerCursorSetup, cursorMode_ofByte h, hready, hmargin, hresult]
  rw [← h, byte_toNat]

/-- PORT SETUP with codes that name a format and a byte order (R152, R154). -/
theorem answerPortSetup_named {format order lapse : Byte} {enable : Half} {f : Format} {o : ByteOrder}
    (hformat : format.toNat = f.code) (horder : order.toNat = byteOrderCode o) :
    s.answerPortSetup p format order lapse enable
      = { state := s.setPort p { s.port p with
            settings := { format := f, order := o, lapse := lapse.toNat, enable := CondSet.ofHalf enable }
            lapseTimer := if lapse.toNat = 0 then none else some (10000 * lapse.toNat) }
          reply := { result := .ok, fields := [.u8 format, .u8 order, .u8 lapse, .u16 (enable &&& 0x07FF#16)] } } := by
  have htimer : lapseStart lapse.toNat = if lapse.toNat = 0 then none else some (10000 * lapse.toNat) := by
    rw [lapseStart, lapseUnit, Nat.mul_comm]
  simp only [State.answerPortSetup, format_ofByte hformat, byteOrderOf_code horder, Settings.fields, ← hformat, ← horder,
    byte_toNat, toHalf_ofHalf, htimer]
  rfl

/-- Settles O15: the answers of the two setups, by whether their codes name a mode, a format and a byte order. -/
theorem setupsStoreSettings : Obligations.SetupsStoreSettings := by
  intro s p hr
  refine ⟨fun mode ready margin m hm => congrArg Host.Outcome.next ?_,
    fun mode ready margin hm => congrArg Host.Outcome.next ?_,
    fun format order lapse enable f o hf ho => ⟨congrArg Host.Outcome.next ?_, toHalf_ofHalf enable⟩,
    fun format order lapse enable hbad => congrArg Host.Outcome.next (onRequest_answered s p _ _ hr ?_)⟩
  · have hcode : mode.toNat = m.code := by cases m <;> exact hm
    rw [State.onRequest_receiving s p _ hr, answerCursorSetup_named s p hcode]
  · refine onRequest_answered s p _ _ hr ?_
    simp only [State.answerCursorSetup, cursorMode_ofByte_none hm]
  · have hformat : format.toNat = f.code := by cases f <;> exact hf
    have horder : order.toNat = byteOrderCode o := by cases o <;> exact ho
    rw [State.onRequest_receiving s p _ hr, answerPortSetup_named s p hformat horder]
  · unfold State.answerPortSetup
    obtain h | h := hbad
    · rw [format_ofByte_none h]
    · rw [byteOrderOf_none h]
      cases Format.ofByte format <;> rfl

/-! ## Attention -/

theorem readyHolds_iff : s.readyHolds p = true
    ↔ ((s.port p).cursor.mode = .sequential ∧ (s.port p).cursor.ready ≤ s.lag p)
      ∨ ((s.port p).cursor.mode = .latest ∧ 1 ≤ s.lag p) := by
  unfold State.readyHolds
  cases (s.port p).cursor.mode <;> simp

theorem nearFullHolds_iff : s.nearFullHolds p = true
    ↔ (s.port p).cursor.mode = .sequential ∧ s.capacity - (s.port p).cursor.margin ≤ s.lag p := by
  unfold State.nearFullHolds
  cases (s.port p).cursor.mode <;> simp

/-- Settles O17: the pending set bit by bit, and ATTN as the meeting of two sets. -/
theorem attentionFollowsSets : Obligations.AttentionFollowsSets := by
  intro s p c lag
  refine ⟨meets_iff _ _, ?_, ?_, rfl, fun set => ?_⟩
  · rw [toHalf_getLsbD]
    exact readyHolds_iff s p
  · rw [toHalf_getLsbD]
    exact nearFullHolds_iff s p
  · exact List.map_congr_left fun i _ => toHalf_getLsbD set i

end Sys2Proof.ClientCursors
end

section
/-!
PROOFS. A response clocked out (R147, R149, R151, R153, R159), and the edges that bring its place events (R117, R143; log 4)
(O8).
-/

namespace Sys2Proof.ClientCursors

open Sys2Proof.Machine Sys2Proof.StrokeRing

variable (s : State) (p : PortId)

/-! ## The bytes of a response -/

section
variable (r : Resp)

/-- The bytes fixed at completion go out first. -/
theorem byteAt_fixed {i : Nat} {b : Byte} (h : (r.reply.bytes r.format r.order)[i]? = some b) : r.byteAt i = b := by
  obtain ⟨hi, -⟩ := List.getElem?_eq_some_iff.mp h
  rw [Resp.byteAt, if_pos hi, List.getD_eq_getElem?_getD, h, Option.getD_some]

/-- After them, those of the place being sent. -/
theorem byteAt_place {i done : Nat} {pl : Place} (hx : r.xfer.current = some (done, pl))
    (hfixed : (r.reply.bytes r.format r.order).length ≤ i) (hstart : 4 + done * r.format.length ≤ i) :
    r.byteAt i = ((pl.bytes r.format r.order)[i - (4 + done * r.format.length)]?).getD 0 := by
  rw [Resp.byteAt, if_neg (not_lt.mpr hfixed), hx]
  exact (if_pos hstart).trans (List.getD_eq_getElem?_getD ..)

/-- With no place being sent, 00h after the last byte. -/
theorem byteAt_end {i : Nat} (hx : r.xfer.current = none) (hfixed : (r.reply.bytes r.format r.order).length ≤ i) :
    r.byteAt i = 0 := by
  rw [Resp.byteAt, if_neg (not_lt.mpr hfixed), hx]

/-! ## The places of a response -/

/-- The next bit to go out is the first of place `done`, which has not begun. -/
def beginsPlace (done : Nat) : Prop :=
  ∃ k, done < k ∧ r.outBits = r.placeStart done
    ∧ (r.xfer = .read k done none ∨ ∃ e live seq, r.xfer = .capture e live seq k done none)

/-- Place `done` is being sent, and is `pl`. -/
def sendsPlace (done : Nat) (pl : Place) : Prop :=
  ∃ k, r.xfer = .read k done (some pl) ∨ ∃ e live seq, r.xfer = .capture e live seq k done (some pl)

theorem placeDue_iff : r.placeDue = true ↔ ∃ done, beginsPlace r done := by
  unfold Resp.placeDue beginsPlace
  rcases r.xfer with _ | ⟨k, done, _ | pl⟩ | ⟨e, live, seq, k, done, _ | pl⟩ <;> simp

theorem placeSent_iff : r.placeSent = true ↔ ∃ done pl, sendsPlace r done pl ∧ r.outBits = r.placeStart (done + 1) := by
  unfold Resp.placeSent sendsPlace
  rcases r.xfer with _ | ⟨k, done, _ | pl⟩ | ⟨e, live, seq, k, done, _ | pl⟩ <;> simp

theorem current_iff (done : Nat) (pl : Place) : r.xfer.current = some (done, pl) ↔ sendsPlace r done pl := by
  unfold Xfer.current sendsPlace
  rcases r.xfer with _ | ⟨k, done, _ | pl⟩ | ⟨e, live, seq, k, done, _ | pl⟩ <;> simp

theorem not_placeDue_of_sends {done : Nat} {pl : Place} (h : sendsPlace r done pl) : r.placeDue = false := by
  unfold Resp.placeDue
  obtain ⟨k, hx | ⟨e, live, seq, hx⟩⟩ := h <;> rw [hx]

end

/-! ## The edges -/

section
variable {s p} {left : Nat} {resp : Resp} (hf : (s.port p).framing = .response left resp)
include hf

theorem exec_fall (mosi : Bool) : exec (.sclkEdge p .fall mosi) s = .next (s.responseFall p resp) := by
  change execSclkEdge p .fall mosi s = _
  unfold execSclkEdge
  rw [hf]

theorem exec_rise (mosi : Bool) : exec (.sclkEdge p .rise mosi) s = .next (s.responseRise p resp) := by
  change execSclkEdge p .rise mosi s = _
  unfold execSclkEdge
  rw [hf]

/-- A falling edge that begins no place puts the next bit on MISO and restarts the 2 ms (R147, R151). -/
theorem exec_fall_shows (mosi : Bool) (hdue : resp.placeDue = false) {b : Byte} (hb : resp.byteAt (resp.outBits / 8) = b) :
    exec (.sclkEdge p .fall mosi) s = .next (s.setPort p { s.port p with
      framing := .response 2000 { resp with outBits := resp.outBits + 1 }
      miso := some (b.getMsbD (resp.outBits % 8)) }) := by
  rw [exec_fall hf, State.responseFall, hdue, if_neg Bool.false_ne_true, State.shiftOut, State.updPort, hf, ← hb]
  rfl

/-- A rising edge that completes no place restarts the 2 ms alone (R151). -/
theorem exec_rise_kept (mosi : Bool) (hsent : resp.placeSent = false) :
    exec (.sclkEdge p .rise mosi) s = .next (s.setPort p { s.port p with framing := .response 2000 resp }) := by
  rw [exec_rise hf, State.responseRise, hsent, if_neg Bool.false_ne_true]
  rfl

/-- After the falling edge that begins a place, the response stands as after the same edge with the place begun before. -/
theorem exec_fall_begins (mosi : Bool) {t : State} {resp' : Resp} (hdue : resp.placeDue = true) (ht : s.placeBegin p = t)
    (hf' : (t.port p).framing = .response left resp') (hdue' : resp'.placeDue = false) :
    exec (.sclkEdge p .fall mosi) s = exec (.sclkEdge p .fall mosi) t := by
  rw [exec_fall hf, exec_fall hf', State.responseFall, hdue, if_pos rfl, ht, State.responseFall, hdue',
    if_neg Bool.false_ne_true]

theorem exec_rise_completes (mosi : Bool) (hsent : resp.placeSent = true) :
    exec (.sclkEdge p .rise mosi) s = .next (s.placeComplete p) := by
  rw [exec_rise hf, State.responseRise, hsent, if_pos rfl]

/-! ## The place events of READ and of CAPTURE READ keep apart -/

theorem captureReadPlaceBegin_of_read {k done : Nat} {cur : Option Place} (hx : resp.xfer = .read k done cur) :
    s.captureReadPlaceBegin p = s := by
  simp only [State.captureReadPlaceBegin, hf, hx]

theorem captureReadRecordComplete_of_read {k done : Nat} {cur : Option Place} (hx : resp.xfer = .read k done cur) :
    s.captureReadRecordComplete p = s := by
  simp only [State.captureReadRecordComplete, hf, hx]

theorem readPlaceBegin_of_capture {e : Fin 4} {live : Bool} {first : Seq} {k done : Nat} {cur : Option Place}
    (hx : resp.xfer = .capture e live first k done cur) : s.readPlaceBegin p = s := by
  simp only [State.readPlaceBegin, hf, hx]

theorem readRecordComplete_of_capture {e : Fin 4} {live : Bool} {first : Seq} {k done : Nat} {cur : Option Place}
    (hx : resp.xfer = .capture e live first k done cur) : s.readRecordComplete p = s := by
  simp only [State.readRecordComplete, hf, hx]

/-- A place of a CAPTURE READ that is due begins (R143). -/
theorem captureReadPlaceBegin_due {e : Fin 4} {live : Bool} {first : Seq} {k done : Nat}
    (hx : resp.xfer = .capture e live first k done none) (hk : done < k) :
    s.captureReadPlaceBegin p = s.setPort p { s.port p with
      framing := .response left { resp with
        outBits := resp.placeStart done
        xfer := .capture e live first k done (some (s.capturePlace e live (first + BitVec.ofNat 32 done))) } } := by
  simp only [State.captureReadPlaceBegin, hf, hx, hk, if_true]
  rfl

theorem fall_begins_read (mosi : Bool) {k done : Nat} (hx : resp.xfer = .read k done none) (hk : done < k)
    (hbits : resp.outBits = resp.placeStart done) :
    exec (.sclkEdge p .fall mosi) s = exec (.sclkEdge p .fall mosi) (s.readPlaceBegin p) := by
  have hbegun := congrArg (fun t => (t.port p).framing) (readPlaceBegin_due s p hf hx hk)
  rw [State.setPort_same] at hbegun
  have hdue := (placeDue_iff resp).mpr ⟨done, k, hk, hbits, .inl hx⟩
  exact exec_fall_begins hf mosi hdue (captureReadPlaceBegin_of_read hbegun rfl) hbegun rfl

theorem fall_begins_captureRead (mosi : Bool) {e : Fin 4} {live : Bool} {first : Seq} {k done : Nat}
    (hx : resp.xfer = .capture e live first k done none) (hk : done < k) (hbits : resp.outBits = resp.placeStart done) :
    exec (.sclkEdge p .fall mosi) s = exec (.sclkEdge p .fall mosi) (s.captureReadPlaceBegin p) := by
  have hbegun := congrArg (fun t => (t.port p).framing) (captureReadPlaceBegin_due hf hx hk)
  rw [State.setPort_same] at hbegun
  have hdue := (placeDue_iff resp).mpr ⟨done, k, hk, hbits, .inr ⟨e, live, first, hx⟩⟩
  exact exec_fall_begins hf mosi hdue (by rw [State.placeBegin, readPlaceBegin_of_capture hf hx]) hbegun rfl

theorem rise_completes_read (mosi : Bool) {k done : Nat} {pl : Place} (hx : resp.xfer = .read k done (some pl))
    (hbits : resp.outBits = resp.placeStart (done + 1)) :
    exec (.sclkEdge p .rise mosi) s = .next (s.readRecordComplete p) := by
  have hsent := congrArg (fun t => (t.port p).framing) (readRecordComplete_sent s p hf hx)
  rw [State.setPort_same] at hsent
  rw [exec_rise_completes hf mosi ((placeSent_iff resp).mpr ⟨done, pl, ⟨k, .inl hx⟩, hbits⟩), State.placeComplete,
    captureReadRecordComplete_of_read hsent rfl]

theorem rise_completes_captureRead (mosi : Bool) {e : Fin 4} {live : Bool} {first : Seq} {k done : Nat} {pl : Place}
    (hx : resp.xfer = .capture e live first k done (some pl)) (hbits : resp.outBits = resp.placeStart (done + 1)) :
    exec (.sclkEdge p .rise mosi) s = .next (s.captureReadRecordComplete p) := by
  rw [exec_rise_completes hf mosi ((placeSent_iff resp).mpr ⟨done, pl, ⟨k, .inr ⟨e, live, first, hx⟩⟩, hbits⟩),
    State.placeComplete, readRecordComplete_of_capture hf hx]

end

/-- Settles O8: the bits by Resp.byteAt, and the edges by whether a place is due or has been sent. -/
theorem responseClockedOut : Obligations.ResponseClockedOut := by
  intro s p left resp mosi hf code field fixed here first begins sends shown kept
  have hfield : Field.bytes resp.order = field := by
    funext f
    cases f with
    | u8 v => exact (sentBytes_one resp.order v).symm
    | u16 v => exact (sentBytes_two resp.order v).symm
    | u32 v => exact (sentBytes_four resp.order v).symm
  have hfixed : resp.reply.bytes resp.format resp.order = fixed := by
    have hcode : resp.reply.result.code = BitVec.ofNat 8 code := by
      simp only [code]
      cases resp.reply.result <;> rfl
    rw [Reply.bytes, hcode, hfield]
  have hdue : ¬ begins → resp.placeDue = false := fun hno => Bool.eq_false_iff.mpr fun hdue => by
    obtain ⟨done, k, hplace⟩ := (placeDue_iff resp).mp hdue
    exact hno ⟨k, done, hplace⟩
  refine ⟨fun hno b hb => ?_, fun done pl hsends hlen hstart => ?_, fun hno hnone hlen => ?_, fun hno => ?_,
    fun k done hx hk hbits => ?_, fun k done pl hx hbits => ?_, fun e live seq k done hx hk hbits => ?_,
    fun e live seq k done pl hx hbits => ?_⟩
  · exact exec_fall_shows hf mosi (hdue hno) (byteAt_fixed resp (by rwa [hfixed]))
  · exact exec_fall_shows hf mosi (not_placeDue_of_sends resp hsends)
      (byteAt_place resp ((current_iff resp done pl).mpr hsends) (by rwa [hfixed]) hstart)
  · have hcurrent : resp.xfer.current = none :=
      Option.eq_none_iff_forall_ne_some.mpr fun ⟨done, pl⟩ h => hnone done pl ((current_iff resp done pl).mp h)
    exact exec_fall_shows hf mosi (hdue hno) (byteAt_end resp hcurrent (by rwa [hfixed]))
  · refine exec_rise_kept hf mosi (Bool.eq_false_iff.mpr fun hsent => ?_)
    obtain ⟨done, pl, hsends, hbits⟩ := (placeSent_iff resp).mp hsent
    exact hno done pl hsends hbits
  · exact ⟨_, rfl, fall_begins_read hf mosi hx hk hbits⟩
  · exact rise_completes_read hf mosi hx hbits
  · exact ⟨_, rfl, fall_begins_captureRead hf mosi hx hk hbits⟩
  · exact rise_completes_captureRead hf mosi hx hbits

end Sys2Proof.ClientCursors
end

section
/-!
PROOFS. CAPTURE: its tests in order, the lowest EMPTY entry and the lowest free bank, and the response (R130, R131) (O35).
-/

namespace Sys2Proof.Captures

open Sys2Proof.Machine Sys2Proof.KindsAndCurves

variable (s : State) (p : PortId) (trigger : Byte) (first : Word) (second : Half) (drive : Byte)

/-! ## The lowest EMPTY entry and the lowest free bank -/

/-- A bank that is outside the ring and held by no entry (R98, R130). -/
def usableBank (s : State) (b : Fin 8) : Prop :=
  ¬ (s.items.ringBase ≤ b.val ∧ b.val < s.items.ringBase + s.items.ringBanks)
  ∧ ∀ e h, s.entry e = some h → h.bank ≠ b

theorem bankHeld_iff (b : Fin 8) : s.bankHeld b = true ↔ ∃ e h, s.entry e = some h ∧ h.bank = b := by
  simp [State.bankHeld, entries_toList, Fin.exists_fin_succ, Option.any_eq_true]

theorem usableBank_iff (b : Fin 8) : (!s.items.isRingBank b && !s.bankHeld b) = true ↔ usableBank s b := by
  have hring : s.items.isRingBank b = true
      ↔ s.items.ringBase ≤ b.val ∧ b.val < s.items.ringBase + s.items.ringBanks := by
    simp [Items.isRingBank]
  have hheld : (∀ e h, s.entry e = some h → h.bank ≠ b) ↔ ¬ s.bankHeld b = true := by
    simp [bankHeld_iff]
  rw [usableBank, ← hring, hheld, Bool.and_eq_true, Bool.not_eq_true', Bool.not_eq_true', Bool.eq_false_iff,
    Bool.eq_false_iff]

theorem freeBank_eq_some (b : Fin 8) : s.freeBank = some b ↔ usableBank s b ∧ ∀ b' < b, ¬ usableBank s b' := by
  unfold State.freeBank
  rw [← Fin.find?_eq_find?_finRange, Fin.find?_eq_some_iff]
  simp only [← usableBank_iff, Bool.not_eq_true]

theorem freeEntry_eq_some (e : Fin 4) : s.freeEntry = some e ↔ s.entry e = none ∧ ∀ e' < e, s.entry e' ≠ none := by
  unfold State.freeEntry
  rw [← Fin.find?_eq_find?_finRange, Fin.find?_eq_some_iff]
  simp [Option.isSome_iff_ne_none]

/-! ## The tests on the parameters -/

theorem ofByte_eq_some (g : Trigger) : Trigger.ofByte trigger = some g ↔ trigger.toNat = g.code := by
  constructor
  · intro h
    unfold Trigger.ofByte at h
    split at h
    case h_5 => cases h
    all_goals cases h; assumption
  · intro h
    unfold Trigger.ofByte
    rw [h]
    cases g <;> rfl

/-- A trigger of 0 to 3 names one. -/
theorem exists_ofByte (h : trigger.toNat ≤ 3) : ∃ g, Trigger.ofByte trigger = some g := by
  simp only [ofByte_eq_some]
  obtain h | h | h | h : trigger.toNat = 0 ∨ trigger.toNat = 1 ∨ trigger.toNat = 2 ∨ trigger.toNat = 3 := by omega
  · exact ⟨.immediate, h⟩
  · exact ⟨.sync, h⟩
  · exact ⟨.contact, h⟩
  · exact ⟨.absolute, h⟩

theorem ofByte_eq_none (h : 3 < trigger.toNat) : Trigger.ofByte trigger = none := by
  refine Option.eq_none_iff_forall_ne_some.mpr fun g hg => ?_
  rw [ofByte_eq_some] at hg
  cases g <;> simp only [Trigger.code] at hg <;> omega

theorem absolute_iff {g : Trigger} : g.code = 3 ↔ g = .absolute := by cases g <;> simp [Trigger.code]

/-- A byte is a flag when it is 0 or 1. -/
theorem not_flag_iff (b : Byte) : (b ≠ 0 ∧ b ≠ 1) ↔ 2 ≤ b.toNat := by
  constructor
  · rintro ⟨h0, h1⟩
    bv_omega
  · intro h
    constructor <;> bv_omega

theorem flag_of_le {b : Byte} (h : b.toNat ≤ 1) : ¬ (b ≠ 0 ∧ b ≠ 1) := by
  rw [not_flag_iff]
  omega

theorem captureTest_no_flag (g : Trigger) (hd : 2 ≤ drive.toNat) :
    s.captureTest (some g) first second drive = some .badValue := by
  simp only [State.captureTest, if_pos ((not_flag_iff drive).mpr hd)]

theorem captureTest_relative {g : Trigger} (hg : g ≠ .absolute) (hd : drive.toNat ≤ 1) :
    s.captureTest (some g) first second drive
      = if first.toNat ≤ 511 ∧ second.toNat ≤ 511 ∧ 1 ≤ first.toNat + second.toNat ∧ first.toNat + second.toNat ≤ 512
        then none else some .badValue := by
  have hreach : (511 < first.toNat ∨ 511 < second.toNat ∨ first.toNat + second.toNat < 1
        ∨ 512 < first.toNat + second.toNat)
      ↔ ¬ (first.toNat ≤ 511 ∧ second.toNat ≤ 511 ∧ 1 ≤ first.toNat + second.toNat
        ∧ first.toNat + second.toNat ≤ 512) := by omega
  simp only [State.captureTest, if_neg (flag_of_le hd), if_neg hg, hreach, ite_not]

theorem captureTest_absolute (hd : drive.toNat ≤ 1) :
    s.captureTest (some .absolute) first second drive
      = if 1 ≤ second.toNat ∧ second.toNat ≤ 512 then
          if seqDist s.ring.o first ≤ s.capacity ∧ seqDist first s.ring.w ≤ s.capacity then none else some .outOfRange
        else some .badValue := by
  have hwindow : (second.toNat < 1 ∨ 512 < second.toNat) ↔ ¬ (1 ≤ second.toNat ∧ second.toNat ≤ 512) := by omega
  simp only [State.captureTest, if_neg (flag_of_le hd), if_true, hwindow, ite_not, State.within, State.atOrBefore,
    Bool.and_eq_true, decide_eq_true_eq]

/-! ## The response -/

section
variable {s p trigger first second drive} (hr : s.receiving p = true)
include hr

theorem capture_refused {rc : ResultCode} (ht : s.captureTest (Trigger.ofByte trigger) first second drive = some rc) :
    exec (.capture p trigger first second drive) s = .next (s.answered p (captureRefusal rc) .none) :=
  congrArg Host.Outcome.next (onRequest_answered s p _ _ hr (by simp only [State.answerCapture, ht]))

variable {g : Trigger} (hg : Trigger.ofByte trigger = some g) (ht : s.captureTest (some g) first second drive = none)
include hg ht

theorem capture_noStore (hno : ¬ ∃ e b, s.freeEntry = some e ∧ s.freeBank = some b) :
    exec (.capture p trigger first second drive) s = .next (s.answered p (captureRefusal .noStore) .none) := by
  refine congrArg Host.Outcome.next (onRequest_answered s p _ _ hr ?_)
  rw [State.answerCapture, hg, ht]
  dsimp only
  split
  · next e b he hb => exact absurd ⟨e, b, he, hb⟩ hno
  · rfl

/-- An accepted CAPTURE leaves the state its trigger gives, and answers the entry as it stands there. -/
theorem capture_accepted {e : Fin 4} {b : Fin 8} (he : s.freeEntry = some e) (hb : s.freeBank = some b)
    {t : State} {x : Held} (hstart : s.startCapture p g first second drive e b = t) (hx : t.entry e = some x) :
    exec (.capture p trigger first second drive) s = .next (t.answered p (captureReply e (some x)) .none) := by
  refine congrArg Host.Outcome.next ?_
  rw [State.onRequest_receiving s p _ hr, State.answerCapture, hg, ht, he, hb, ← hx, ← hstart]

end

/-! ## What an accepted CAPTURE becomes (R131, R135 to R137) -/

/-- A SYNC capture arms its entry, and starts the pulse when it is driven. -/
theorem startCapture_sync (e : Fin 4) (b : Fin 8) : s.startCapture p .sync first second drive e b
    = { s.setEntry e (some (armedEntry p .sync first second b)) with
        pulse := if drive = 1 then some pulseTime else s.pulse } := by
  by_cases hdrive : drive = 1
  · simp only [State.startCapture, if_pos hdrive]
  · simp only [State.startCapture, if_neg hdrive]
    rfl

theorem captureReply_armed (e : Fin 4) (g : Trigger) (b : Fin 8) : captureReply e (some (armedEntry p g first second b))
    = { result := .ok, fields := [.byte e.val, .byte 1, .u32 0, .half 0] } := rfl

theorem captureReply_absolute (e : Fin 4) (b : Fin 8) : captureReply e (some (absoluteEntry p first second b))
    = { result := .ok, fields := [.byte e.val, .byte 2, .u32 first, .half second.toNat] } := rfl

/-- Settles O35: by the tests in order, then by the trigger. -/
theorem captureRequest : Obligations.CaptureRequest := by
  intro s p trigger first second drive hr refusedAs named reach window inRing usable store
  have hstore (e : Fin 4) (b : Fin 8) : store e b ↔ s.freeEntry = some e ∧ s.freeBank = some b := by
    rw [freeEntry_eq_some, freeBank_eq_some, and_assoc]
    rfl
  have hrefused (rc : ResultCode) (h : s.captureTest (Trigger.ofByte trigger) first second drive = some rc) :
      refusedAs rc := capture_refused hr h
  have habs (h : trigger.toNat = 3) : Trigger.ofByte trigger = some .absolute := (ofByte_eq_some trigger .absolute).mpr h
  have hrel {g : Trigger} (hg : Trigger.ofByte trigger = some g) (h : trigger.toNat ≠ 3) : g ≠ .absolute := by
    rwa [← absolute_iff.ne, ← (ofByte_eq_some trigger g).mp hg]
  refine ⟨fun hn => hrefused _ ?_, fun ⟨ht, hd⟩ hlt hno => hrefused _ ?_, fun ⟨_, hd⟩ h3 hno => hrefused _ ?_,
    fun ⟨_, hd⟩ h3 hwin hno => hrefused _ ?_, fun ⟨ht, hd⟩ hfits hno => ?_, fun e b ⟨ht, hd⟩ hreach h12 hst => ?_,
    fun e b ⟨_, hd⟩ hwin hin h3 hst => ?_⟩
  · by_cases ht : trigger.toNat ≤ 3
    · obtain ⟨g, hg⟩ := exists_ofByte trigger ht
      rw [hg, captureTest_no_flag s first second drive g (by omega)]
    · rw [ofByte_eq_none trigger (by omega), State.captureTest]
  · obtain ⟨g, hg⟩ := exists_ofByte trigger ht
    rw [hg, captureTest_relative s first second drive (hrel hg (by omega)) hd, if_neg hno]
  · rw [habs h3, captureTest_absolute s first second drive hd, if_neg hno]
  · rw [habs h3, captureTest_absolute s first second drive hd, if_pos hwin, if_neg hno]
  · simp only [hstore] at hno
    obtain ⟨g, hg⟩ := exists_ofByte trigger ht
    by_cases h3 : trigger.toNat = 3
    · rw [if_pos h3] at hfits
      refine capture_noStore hr (habs h3) ?_ hno
      rw [captureTest_absolute s first second drive hd, if_pos hfits.1, if_pos hfits.2]
    · rw [if_neg h3] at hfits
      refine capture_noStore hr hg ?_ hno
      rw [captureTest_relative s first second drive (hrel hg h3) hd, if_pos hfits]
  · obtain ⟨he, hb⟩ := (hstore e b).mp hst
    have htest {g : Trigger} (hg : g ≠ .absolute) : s.captureTest (some g) first second drive = none := by
      rw [captureTest_relative s first second drive hg hd, if_pos hreach]
    obtain h1 | h2 := h12
    · have hdrive : drive.toNat = 1 ↔ drive = 1 := by bv_omega
      rw [capture_accepted hr ((ofByte_eq_some trigger .sync).mpr h1) (htest nofun) he hb
        (startCapture_sync s p first second drive e b) (State.setEntry_same s e _), captureReply_armed]
      simp only [h1, hdrive, true_and, if_true]
      rfl
    · rw [capture_accepted hr ((ofByte_eq_some trigger .contact).mpr h2) (htest nofun) he hb rfl (State.setEntry_same s e _),
        captureReply_armed]
      simp only [h2, OfNat.ofNat_ne_one, false_and, if_false]
      rfl
  · obtain ⟨he, hb⟩ := (hstore e b).mp hst
    have htest := captureTest_absolute s first second drive hd
    rw [if_pos hwin, if_pos hin] at htest
    rw [capture_accepted hr (habs h3) htest he hb rfl (State.setEntry_same s e _), captureReply_absolute]
    rfl

end Sys2Proof.Captures
end

section
/-!
PROOFS. The trigger of a relative capture: the window it fixes (R132, R133), at once for an IMMEDIATE one (O36), and by TSYNC
(R134, R135) (O37).
-/

namespace Sys2Proof.Captures

open Sys2Proof.Machine Sys2Proof.KindsAndCurves Sys2Proof.StrokeRing

theorem entry_raise (s : State) (p : PortId) (c : Cond) (e : Fin 4) : (s.raise p c).entry e = s.entry e := by
  simp [State.entry]

/-! ## The window (R133) -/

theorem seqDist_lookBack (w : Seq) {back : Nat} (hb : back ≤ 511) : seqDist (w - BitVec.ofNat 32 back) w = back := by
  unfold seqDist
  bv_omega

section
variable {s : State} {back : Nat} (hs : s.historyLaw) (hb : back ≤ 511)
include hs hb

/-- The sequence `back` behind W is older than O where the ring holds fewer records. -/
theorem older_lookBack : s.older (s.ring.w - BitVec.ofNat 32 back) s.ring.o = decide (s.count < back) := by
  obtain ⟨hcount, -, hmax⟩ := ringFits_of_historyLaw s hs
  obtain ⟨hmin, -, -⟩ := historyLaw_bounds s .p0 hs
  have hcap : s.capacity = 512 * s.items.ringBanks := Nat.mul_comm _ _
  simp only [State.older, State.atOrBefore, bne, beq_eq_decide, ← decide_not, ← Bool.decide_and, decide_eq_decide]
  unfold State.count seqDist at *
  generalize s.capacity = c at *
  constructor
  · rintro ⟨hle, hne⟩
    bv_omega
  · intro hlt
    constructor <;> bv_omega

/-- The window of a relative capture, by whether the ring holds all of the look-back. -/
theorem window_eq (ahead : Nat) : s.window back ahead =
    { start := if s.count < back then s.ring.o else s.ring.w - BitVec.ofNat 32 back
      target := min back s.count + ahead, truncated := decide (s.count < back) } := by
  have hcount : seqDist s.ring.o s.ring.w = s.count := rfl
  by_cases h : s.count < back
  · simp [State.window, older_lookBack hs hb, h, hcount, h.le]
  · simp [State.window, older_lookBack hs hb, h, seqDist_lookBack s.ring.w hb, Nat.le_of_not_lt h]

end

/-- Settles O36: by the window that the trigger fixes, and whether it is empty. -/
theorem immediateCaptureWindow : Obligations.ImmediateCaptureWindow := by
  intro s p first second drive e b hs hr hd he hb h1 h2 h3 h4 short found w entry reply
  have hw : s.window first.toNat second.toNat = w := window_eq hs h1 second.toNat
  have htest : s.captureTest (some .immediate) first second drive = none := by
    rw [captureTest_relative s first second drive (by decide) hd, if_pos ⟨h1, h2, h3, h4⟩]
  have haccepted {t : State} {x : Held} (ht : s.triggerHeld e (armedEntry p .immediate first second b) = t)
      (hx : t.entry e = some x) := capture_accepted hr (trigger := 0) rfl htest he hb ht hx
  have hcases := s.triggerHeld_cases e (armedEntry p .immediate first second b) first.toNat second.toNat rfl
  rw [hw] at hcases
  refine ⟨fun hne => ?_, fun hz => ?_, ?_, ?_⟩
  · obtain ⟨hz, -⟩ | ⟨-, ht⟩ := hcases
    · exact absurd hz hne
    · exact haccepted ht (State.setEntry_same s e _)
  · obtain ⟨-, ht⟩ | ⟨hne, -⟩ := hcases
    · exact haccepted ht ((entry_raise _ _ _ e).trans (State.setEntry_same s e (some (entry .ready))))
    · exact absurd hz hne
  · exact (Nat.add_le_add_right (Nat.min_le_left _ _) _).trans h4
  · by_cases h : short
    · exact (congrArg (seqDist · s.ring.w) (if_pos h)).trans (Nat.min_eq_right (le_of_lt h)).symm
    · exact (congrArg (seqDist · s.ring.w) (if_neg h)).trans
        ((seqDist_lookBack s.ring.w h1).trans (Nat.min_eq_left (Nat.le_of_not_lt h)).symm)

/-! ## TSYNC (R134, R135) -/

/-- Settles O37: a fall triggers as every trigger of armed captures does; an expiry looks at the time left. -/
theorem tsyncTriggersArmed : Obligations.TsyncTriggersArmed := fun s =>
  ⟨⟨_, rfl, forEntries_triggered s .sync⟩, fun h => congrArg Host.Outcome.next (if_pos h),
    fun h => congrArg Host.Outcome.next (if_neg h)⟩

end Sys2Proof.Captures
end

section
/-!
PROOFS. A copy into the bank of a FILLING entry (R138 to R140) (O38).
-/

namespace Sys2Proof.Captures

open Sys2Proof.Machine Sys2Proof.KindsAndCurves Sys2Proof.StrokeRing

section
variable {s : State} {e : Fin 4} {h : Held} {w : Window}
variable (he : s.entry e = some h) (hf : h.stage = .filling) (hw : h.window = some w)
include he hf hw

theorem captureCopy_of_read {r : Record} (hr : s.ringRead (w.start + BitVec.ofNat 32 h.copied) = some r) :
    s.captureCopy e
      = ({ s with store := Store.write s.store (bankAddr h.bank.val h.copied) r } : State).afterCopy e h w.target := by
  simp only [State.captureCopy, he, hf, hw, hr]

/-- What the ring does not hold is overtaken or awaited (R139, R140). -/
theorem captureCopy_of_not_read (hr : s.ringRead (w.start + BitVec.ofNat 32 h.copied) = none) :
    s.captureCopy e
      = if s.older (w.start + BitVec.ofNat 32 h.copied) s.ring.o then s.failEntry e h .overtaken else s := by
  simp only [State.captureCopy, he, hf, hw, hr]

end

/-- W itself has not been written: the ring does not hold it, and it is not older than O (R101, R105). -/
theorem next_awaited {s : State} (hs : s.historyLaw) : s.ringRead s.ring.w = none ∧ s.older s.ring.w s.ring.o = false := by
  obtain ⟨hcount, -, hmax⟩ := ringFits_of_historyLaw s hs
  have hholds : ¬ s.holds s.ring.w = true := by rw [holds_iff]; exact lt_irrefl s.count
  refine ⟨if_neg hholds, ?_⟩
  simp only [State.older, State.atOrBefore, Bool.and_eq_false_iff, decide_eq_false_iff_not, bne_eq_false_iff_eq]
  unfold State.count seqDist at *
  generalize s.capacity = c at *
  by_cases hwo : s.ring.w = s.ring.o
  · exact .inr hwo
  · left
    bv_omega

/-- Settles O38: by what the ring reads at the next record, and whether it is the last of the window. -/
theorem captureCopyFillsBank : Obligations.CaptureCopyFillsBank := by
  intro s e h w he hf hw n
  refine ⟨fun r hr => ?_, fun hr hle hne => ?_, fun hs hn => ?_⟩
  · have hcopy := captureCopy_of_read he hf hw hr
    refine ⟨Store.write s.store (bankAddr h.bank.val h.copied) r, fun hlast => ?_, fun hmore => ?_, fun a => ?_⟩
    · exact congrArg Host.Outcome.next (hcopy.trans (if_pos hlast))
    · exact congrArg Host.Outcome.next (hcopy.trans (if_neg hmore))
    · rw [Store.read_write, bankAddr, bankSlots, Nat.mul_comm]
  · have holder : s.older n s.ring.o = true := by simp [State.older, State.atOrBefore, hle, hne]
    exact congrArg Host.Outcome.next ((captureCopy_of_not_read he hf hw hr).trans (if_pos holder))
  · obtain ⟨hr, holder⟩ := next_awaited hs
    rw [← hn] at hr holder
    refine congrArg Host.Outcome.next ((captureCopy_of_not_read he hf hw hr).trans (if_neg ?_))
    exact Bool.eq_false_iff.mp holder

end Sys2Proof.Captures
end

section
/-!
PROOFS. CAPTURE READ: its tests, the places it fixes, and each place begun and completed (R142, R143, R149) (O39).
-/

namespace Sys2Proof.Captures

open Sys2Proof.Machine Sys2Proof.KindsAndCurves Sys2Proof.ClientCursors

/-! ## Entries that a port does not own -/

theorem owns_of_empty {s : State} {e : Fin 4} (p : PortId) (he : s.entry e = none) : owns s p e = false := by
  simp [owns, he]

theorem owns_of_other {s : State} {e : Fin 4} {p : PortId} {h : Held} (he : s.entry e = some h) (ho : h.owner = p.other) :
    owns s p e = false := by
  simp [owns, he, ho]

/-! ## The request -/

theorem okUnless_decide (c : Prop) [Decidable c] : ResultCode.okUnless (decide c) = if c then .clamped else .ok := by
  simp [ResultCode.okUnless]

section
variable (s : State) (p : PortId) (entry n fromStart : Byte) {e : Fin 4}

theorem answerCaptureRead_bad (h : 4 ≤ entry.toNat ∨ 2 ≤ fromStart.toNat) :
    s.answerCaptureRead p entry n fromStart = { state := s, reply := captureReadReply .badValue 0 } := by
  unfold State.answerCaptureRead
  obtain hentry | hflag := h
  · rw [fourOf_of_le hentry]
  · cases fourOf entry with
    | none => rfl
    | some e => exact if_pos ((not_flag_iff fromStart).mpr hflag)

variable (hentry : entry.toNat = e.val) (hflag : fromStart.toNat ≤ 1)
include hentry hflag

theorem answerCaptureRead_not_owned (ho : owns s p e = false) :
    s.answerCaptureRead p entry n fromStart = { state := s, reply := captureReadReply .notOwner 0 } := by
  simp only [State.answerCaptureRead, fourOf_of_toNat hentry, if_neg (flag_of_le hflag)]
  cases he : s.entry e with
  | none => rfl
  | some h => exact if_pos (by simpa [owns, he] using ho)

variable {h : Held} (he : s.entry e = some h) (ho : h.owner = p)
include he ho

theorem answerCaptureRead_not_ready (hs : h.stage ≠ .ready) :
    s.answerCaptureRead p entry n fromStart = { state := s, reply := captureReadReply .notReady 0 } := by
  simp only [State.answerCaptureRead, fourOf_of_toNat hentry, if_neg (flag_of_le hflag), he]
  exact (if_neg (not_not.mpr ho)).trans (if_pos hs)

theorem answerCaptureRead_ready (hs : h.stage = .ready) {w : Window} (hw : h.window = some w) {pos k : Nat}
    (hpos : pos = if fromStart.toNat = 1 then 0 else h.readPos) (hk : k = min (min n.toNat maxRead) (w.target - pos)) :
    s.answerCaptureRead p entry n fromStart =
      { state := s.setEntry e (some { h with readPos := pos })
        reply := captureReadReply (.okUnless (decide (maxRead < n.toNat))) k
        xfer := .capture e true (w.start + BitVec.ofNat 32 pos) k 0 none } := by
  have hone : fromStart.toNat = 1 ↔ fromStart = 1 := by bv_omega
  simp only [hone] at hpos
  simp only [State.answerCaptureRead, fourOf_of_toNat hentry, if_neg (flag_of_le hflag), he, if_neg (not_not.mpr ho),
    if_neg (not_not.mpr hs), Held.startShown, Held.targetShown, hw, Option.map_some, Option.getD_some, ← hpos, ← hk]

end

/-! ## The places -/

/-- A place of an entry that has not been released is the record at its read position (R143). -/
theorem capturePlace_live {s : State} {e : Fin 4} {h : Held} {r : Record} (he : s.entry e = some h)
    (hr : Store.read s.store (512 * h.bank.val + h.readPos) = some r) (seq : Seq) :
    s.capturePlace e true seq = .stroke r := by
  rw [Nat.mul_comm] at hr
  simp only [State.capturePlace, he, bankAddr, bankSlots, hr]

/-- Once the entry has been released, a place is a VOID filler (R143). -/
theorem capturePlace_released (s : State) (e : Fin 4) (seq : Seq) : s.capturePlace e false seq = .void seq := rfl

/-- A place of a CAPTURE READ that has gone out moves the response to the next (R143). -/
theorem captureReadRecordComplete_sent {s : State} {p : PortId} {left : Nat} {resp : Resp} {e : Fin 4} {live : Bool}
    {first : Seq} {k done : Nat} {place : Place} (hf : (s.port p).framing = .response left resp)
    (hx : resp.xfer = .capture e live first k done (some place)) :
    s.captureReadRecordComplete p = (s.advanceRead e live).setResp p 2000
      { resp with outBits := resp.placeStart (done + 1), xfer := .capture e live first k (done + 1) none } := by
  simp only [State.captureReadRecordComplete, hf, hx]
  rfl

theorem advanceRead_live {s : State} {e : Fin 4} {h : Held} (he : s.entry e = some h) :
    s.advanceRead e true = s.setEntry e (some { h with readPos := h.readPos + 1 }) := by
  simp only [State.advanceRead, he]

theorem advanceRead_released (s : State) (e : Fin 4) : s.advanceRead e false = s := rfl

theorem setEntry_setResp (s : State) (p : PortId) (e : Fin 4) (x : Option Held) (left : Nat) (resp : Resp) :
    (s.setEntry e x).setResp p left resp
      = (s.setPort p { s.port p with framing := .response left resp }).setEntry e x := by
  cases p <;> rfl

/-- Settles O39: the tests of the request in order, then each place by whether the entry has been released. -/
theorem captureReadSendsBank : Obligations.CaptureReadSendsBank := by
  constructor
  · intro s p entry n fromStart hr refused
    have hrefused (rc : ResultCode)
        (h : s.answerCaptureRead p entry n fromStart = { state := s, reply := captureReadReply rc 0 }) : refused rc :=
      congrArg Host.Outcome.next (onRequest_answered s p _ _ hr h)
    refine ⟨fun h => hrefused _ (answerCaptureRead_bad s p entry n fromStart h), fun e hentry hflag =>
      ⟨fun he => ?_, fun h he ho => ?_, fun h he ho hs => ?_, fun h w he ho hs hw => ?_⟩⟩
    · exact hrefused _ (answerCaptureRead_not_owned s p entry n fromStart hentry hflag (owns_of_empty p he))
    · exact hrefused _ (answerCaptureRead_not_owned s p entry n fromStart hentry hflag (owns_of_other he ho))
    · exact hrefused _ (answerCaptureRead_not_ready s p entry n fromStart hentry hflag he ho hs)
    · intro pos k
      refine congrArg Host.Outcome.next ?_
      rw [State.onRequest_receiving s p _ hr,
        answerCaptureRead_ready s p entry n fromStart hentry hflag he ho hs hw (pos := pos) (k := k) rfl rfl,
        okUnless_decide]
      rfl
  · intro s p left resp e live first k done hf
    refine ⟨fun hx hk place hlive hvoid => ?_, fun place hx => ⟨fun h hlive he => ?_, fun hlive => ?_⟩⟩
    · have hplace : s.capturePlace e live (first + BitVec.ofNat 32 done) = place := by
        cases live with
        | true =>
          obtain ⟨h, r, he, hread, rfl⟩ := hlive rfl
          exact capturePlace_live he hread _
        | false => exact (hvoid rfl).symm
      have hbegin := captureReadPlaceBegin_due hf hx hk
      rw [hplace] at hbegin
      exact congrArg Host.Outcome.next hbegin
    · subst hlive
      refine congrArg Host.Outcome.next ((captureReadRecordComplete_sent hf hx).trans ?_)
      rw [advanceRead_live he, setEntry_setResp]
      rfl
    · subst hlive
      exact congrArg Host.Outcome.next (captureReadRecordComplete_sent hf hx)

end Sys2Proof.Captures
end

section
/-!
PROOFS. CAPTURE RELEASE: its tests, and the entry made EMPTY with a CAPTURE READ of it in progress (R143, R144) (O40).
-/

namespace Sys2Proof.Captures

open Sys2Proof.Machine Sys2Proof.KindsAndCurves

/-! ## The request -/

section
variable (s : State) (p : PortId) (entry : Byte) {e : Fin 4}

theorem answerCaptureRelease_bad (h : 4 ≤ entry.toNat) :
    s.answerCaptureRelease p entry = { state := s, reply := { result := .badValue, fields := [.u8 0, .u8 0] } } := by
  simp only [State.answerCaptureRelease, fourOf_of_le h]
  rfl

variable (hentry : entry.toNat = e.val)
include hentry

theorem answerCaptureRelease_not_owned (ho : owns s p e = false) :
    s.answerCaptureRelease p entry = { state := s, reply := { result := .notOwner, fields := [.u8 0, .u8 0] } } := by
  simp only [State.answerCaptureRelease, fourOf_of_toNat hentry]
  cases he : s.entry e with
  | none => rfl
  | some h => exact if_pos (by simpa [owns, he] using ho)

theorem answerCaptureRelease_owned {h : Held} (he : s.entry e = some h) (ho : h.owner = p) :
    s.answerCaptureRelease p entry
      = { state := s.releaseEntry e, reply := { result := .ok, fields := [.byte e.val, .byte 0] } } := by
  simp [State.answerCaptureRelease, fourOf_of_toNat hentry, he, ho]

end

/-! ## The release -/

section
variable (s : State) (e : Fin 4) (q : PortId)

theorem releaseEntry_frame : s.releaseEntry e
    = { s with
        entries := s.entries.set e none, port0 := (s.releaseEntry e).port0, port1 := (s.releaseEntry e).port1 } := rfl

theorem releaseEntry_port : (s.releaseEntry e).port q = (s.port q).updXfer (Xfer.releaseEntry e) := by cases q <;> rfl

/-- A port that sends no response stays as it was. -/
theorem releaseEntry_port_same (h : ∀ left resp, (s.port q).framing ≠ .response left resp) :
    (s.releaseEntry e).port q = s.port q := by
  rw [releaseEntry_port, updXfer_same fun left resp hf => absurd hf (h left resp)]

theorem releaseEntry_port_response {left : Nat} {resp : Resp} (hf : (s.port q).framing = .response left resp) :
    (s.releaseEntry e).port q
      = { s.port q with framing := .response left { resp with xfer := resp.xfer.releaseEntry e } } := by
  rw [releaseEntry_port, updXfer_response hf]

end

/-- Settles O40: by who owns the entry; the transfers, by whether they read it. -/
theorem captureReleaseEmptiesEntry : Obligations.CaptureReleaseEmptiesEntry := by
  intro s p entry hr refused
  have hrefused (rc : ResultCode)
      (h : s.answerCaptureRelease p entry = { state := s, reply := { result := rc, fields := [.u8 0, .u8 0] } }) :
      refused rc := congrArg Host.Outcome.next (onRequest_answered s p _ _ hr h)
  refine ⟨fun h => hrefused _ (answerCaptureRelease_bad s p entry h), fun e hentry =>
    ⟨fun he => ?_, fun h he ho => ?_, fun h he ho => ⟨s.releaseEntry e, ?_, releaseEntry_frame s e, fun q =>
      ⟨releaseEntry_port_same s e q, fun left resp hf => ?_⟩⟩⟩⟩
  · exact hrefused _ (answerCaptureRelease_not_owned s p entry hentry (owns_of_empty p he))
  · exact hrefused _ (answerCaptureRelease_not_owned s p entry hentry (owns_of_other he ho))
  · refine congrArg Host.Outcome.next ?_
    rw [State.onRequest_receiving s p _ hr, answerCaptureRelease_owned s p entry hentry he ho]
  · rw [releaseEntry_port_response s e q hf]
    cases resp.xfer with
    | capture e' live first k done cur => simp [Xfer.releaseEntry, bne, beq_eq_decide]
    | read k done cur => rfl
    | none => rfl

end Sys2Proof.Captures
end

section
/-!
PROOFS. The bytes of a request and the request that bytes spell (R148, R159, table 9.8.1) (O5).
-/

namespace Sys2Proof.ClientPorts

open Sys2Proof.Machine

variable (order : ByteOrder) (p : PortId)

/-! ## The bytes of a field -/

theorem halfBytes_spell (v : Half) : ∃ b0 b1, halfBytes order v = [b0, b1] ∧ half order b0 b1 = v := by
  have hjoin : v.extractLsb' 8 8 ++ v.extractLsb' 0 8 = v := by
    rw [BitVec.extractLsb'_append_extractLsb'_eq_extractLsb' (by omega), BitVec.extractLsb'_eq_self]
  cases order
  · exact ⟨_, _, rfl, hjoin⟩
  · exact ⟨_, _, rfl, hjoin⟩

theorem wordBytes_spell (v : Word) :
    ∃ b0 b1 b2 b3, wordBytes order v = [b0, b1, b2, b3] ∧ word order b0 b1 b2 b3 = v := by
  have hjoin : (v.extractLsb' 24 8 ++ v.extractLsb' 16 8) ++ (v.extractLsb' 8 8 ++ v.extractLsb' 0 8) = v := by
    rw [BitVec.extractLsb'_append_extractLsb'_eq_extractLsb' (start₁ := 16) (by omega),
      BitVec.extractLsb'_append_extractLsb'_eq_extractLsb' (start₁ := 0) (by omega)]
    rw [BitVec.extractLsb'_append_extractLsb'_eq_extractLsb' (by omega), BitVec.extractLsb'_eq_self]
  cases order
  · exact ⟨_, _, _, _, rfl, hjoin⟩
  · exact ⟨_, _, _, _, rfl, hjoin⟩

/-! ## The codes that name a command -/

/-- The codes of table 9.8.1, as four runs of numbers. -/
def namesCommand (n : Nat) : Prop :=
  (0x01 ≤ n ∧ n ≤ 0x07) ∨ (0x10 ≤ n ∧ n ≤ 0x15) ∨ (0x20 ≤ n ∧ n ≤ 0x25) ∨ (0x30 ≤ n ∧ n ≤ 0x33)

theorem mem_commandCodes_iff (code : Byte) : code ∈ commandCodes ↔ namesCommand code.toNat := by
  simp [commandCodes, ← BitVec.toNat_inj, namesCommand]
  omega

theorem paramCount_unnamed {code : Byte} (h : ¬ namesCommand code.toNat) : paramCount code = 0 := by
  unfold namesCommand at h
  unfold paramCount
  split
  case h_13 => rfl
  all_goals omega

theorem decodeRequest_unnamed {code : Byte} (h : ¬ namesCommand code.toNat) :
    decodeRequest order p code [] = some (.badCommand p code) := by
  have hcode : commandCodes.contains code = false := by
    simpa [mem_commandCodes_iff] using h
  unfold namesCommand at h
  unfold decodeRequest
  split
  case h_24 => rw [hcode]; rfl
  case h_25 => exact absurd rfl ‹([] : List Byte) = [] → False›
  all_goals omega

/-! ## The round trip -/

/-- The bytes of a well-formed request are a code and as many bytes as that code takes, and they spell the request. -/
theorem encodeRequest_decodes {i : Instr} {bytes : List Byte} (hwf : i.wellFormed = true) (hp : i.requestPort = some p)
    (henc : encodeRequest order i = some bytes) :
    ∃ code params, bytes = code :: params ∧ params.length = paramCount code ∧ decodeRequest order p code params = some i := by
  cases i <;> simp only [Instr.requestPort, Option.some.injEq, reduceCtorEq] at hp
  all_goals
    subst hp
    cases henc
    refine ⟨_, _, rfl, ?_⟩
  case cursorSetup mode ready margin =>
    obtain ⟨r0, r1, hr, rfl⟩ := halfBytes_spell order ready
    obtain ⟨m0, m1, hm, rfl⟩ := halfBytes_spell order margin
    rw [hr, hm]
    exact ⟨rfl, rfl⟩
  case portSetup format order' lapse enable =>
    obtain ⟨e0, e1, he, rfl⟩ := halfBytes_spell order enable
    rw [he]
    exact ⟨rfl, rfl⟩
  case ack conds =>
    obtain ⟨c0, c1, hc, rfl⟩ := halfBytes_spell order conds
    rw [hc]
    exact ⟨rfl, rfl⟩
  case configWrite item value =>
    obtain ⟨v0, v1, hv, rfl⟩ := halfBytes_spell order value
    rw [hv]
    exact ⟨rfl, rfl⟩
  case curveKnot curve input output =>
    obtain ⟨i0, i1, hi, rfl⟩ := halfBytes_spell order input
    obtain ⟨o0, o1, ho, rfl⟩ := halfBytes_spell order output
    rw [hi, ho]
    exact ⟨rfl, rfl⟩
  case capture trigger first second drive =>
    obtain ⟨a0, a1, a2, a3, ha, rfl⟩ := wordBytes_spell order first
    obtain ⟨b0, b1, hb, rfl⟩ := halfBytes_spell order second
    rw [ha, hb]
    exact ⟨rfl, rfl⟩
  case badCommand code =>
    have hcode : ¬ namesCommand code.toNat := by
      simpa [Instr.wellFormed, ← mem_commandCodes_iff] using hwf
    exact ⟨(paramCount_unnamed hcode).symm, decodeRequest_unnamed order _ hcode⟩
  all_goals exact ⟨rfl, rfl⟩

/-- Settles O5: the rows by cases of the request, the rest by the round trip of the bytes sent. -/
theorem requestBytesRoundTrip : Obligations.RequestBytesRoundTrip := by
  refine ⟨fun order i p hwf hp => ?_, fun code => ⟨mem_commandCodes_iff code, fun hno order p =>
    ⟨paramCount_unnamed hno, decodeRequest_unnamed order p hno⟩⟩⟩
  have hrest {code : Nat} {params : List Byte} (henc : encodeRequest order i = some (BitVec.ofNat 8 code :: params)) :
      encodeRequest order i = some (BitVec.ofNat 8 code :: params) ∧ params.length = paramCount (BitVec.ofNat 8 code)
        ∧ decodeRequest order p (BitVec.ofNat 8 code) params = some i := by
    obtain ⟨_, _, heq, hlength, hdecode⟩ := encodeRequest_decodes order p hwf hp henc
    cases heq
    exact ⟨henc, hlength, hdecode⟩
  cases i <;> simp only [Instr.requestPort, reduceCtorEq] at hp
  all_goals
    refine ⟨_, _, rfl, hrest ?_⟩
    simp [encodeRequest, sentBytes_one, sentBytes_two, sentBytes_four]

end Sys2Proof.ClientPorts
end

section
/-!
PROOFS. The framing of a transaction (R147, R150, R151, R154) and the bits that clock a request in (R147, R148) (O6, O7).
-/

namespace Sys2Proof.ClientPorts

open Sys2Proof.Machine Sys2Proof.KindsAndCurves

/-! ## Framing -/

/-- Settles O7: each event by the framing of its port. -/
theorem transactionFraming : Obligations.TransactionFraming := by
  refine ⟨fun s p hf => ?_, fun s p => rfl, fun s p rx resp hf => ?_, fun s p edge mosi hf => ?_⟩
  · have hlapse : lapseStart (s.port p).settings.lapse
        = if (s.port p).settings.lapse = 0 then none else some (10000 * (s.port p).settings.lapse) := by
      rw [lapseStart, Nat.mul_comm, lapseUnit]
    rw [← hlapse]
    refine congrArg Host.Outcome.next ?_
    unfold State.csFall
    rw [hf]
    rfl
  · refine congrArg Host.Outcome.next ?_
    unfold State.abandon
    obtain hf | hf := hf <;> rw [hf] <;> rfl
  · change execSclkEdge p edge mosi s = .next s
    unfold execSclkEdge
    obtain hf | hf := hf <;> rw [hf]

/-! ## The bits received -/

/-- How many bits have been received. -/
def bitsReceived (rx : Rx) : Nat := 8 * rx.bytes.length + rx.nbits

theorem bitsReceived_shift (rx : Rx) (bit : Bool) : bitsReceived (rx.shift bit) = bitsReceived rx + 1 := by
  unfold bitsReceived Rx.shift
  dsimp only
  split
  · simp only [List.length_append, List.length_singleton]
    omega
  · dsimp only
    omega

theorem bitsReceived_foldl (bits : List Bool) (rx : Rx) :
    bitsReceived (bits.foldl Rx.shift rx) = bitsReceived rx + bits.length := by
  induction bits generalizing rx with
  | nil => rfl
  | cons bit rest ih =>
    rw [List.foldl_cons, ih, bitsReceived_shift, List.length_cons]
    omega

/-- The bytes received stay, at the front of those received later. -/
theorem bytes_prefix_foldl (bits : List Bool) (rx : Rx) : rx.bytes <+: (bits.foldl Rx.shift rx).bytes := by
  induction bits generalizing rx with
  | nil => exact List.prefix_rfl
  | cons bit rest ih =>
    refine List.IsPrefix.trans ?_ (ih (rx.shift bit))
    unfold Rx.shift
    dsimp only
    split
    · exact List.prefix_append _ _
    · exact List.prefix_rfl

/-- Eight bits, most significant first, are the byte (R147). -/
theorem foldl_byteBits (start : List Byte) (b : Byte) :
    (byteBits b).foldl Rx.shift { bytes := start } = { bytes := start ++ [b] } := by
  simp only [byteBits, List.range, List.range.loop, List.map_cons, List.map_nil, List.foldl_cons, List.foldl_nil, Rx.shift]
  simp only [Nat.reduceEqDiff, Nat.reduceAdd, if_false, if_true, Rx.mk.injEq, and_true, List.append_cancel_left_eq,
    List.cons.injEq]
  refine BitVec.eq_of_getLsbD_eq fun j hj => ?_
  interval_cases j <;> simp [BitVec.getMsbD]

theorem foldl_bytesBits (bytes start : List Byte) :
    (bytes.flatMap byteBits).foldl Rx.shift { bytes := start } = { bytes := start ++ bytes } := by
  induction bytes generalizing start with
  | nil => simp
  | cons b rest ih => rw [List.flatMap_cons, List.foldl_append, foldl_byteBits, ih, List.append_assoc, List.singleton_append]

/-- A request is complete with its last bit and not before: the code fixes how many bytes it takes (R148). -/
theorem complete_early {order : ByteOrder} {p : PortId} {code : Byte} {params : List Byte} {front back : List Bool}
    (hlength : params.length = paramCount code) (hbits : (code :: params).flatMap byteBits = front ++ back) (hback : back ≠ []) :
    (front.foldl Rx.shift {}).complete order p = none := by
  let early := front.foldl Rx.shift {}
  have hall : back.foldl Rx.shift early = { bytes := code :: params } := by
    rw [← List.foldl_append, ← hbits]
    exact foldl_bytesBits (code :: params) []
  have hcount : bitsReceived early + back.length = 8 * (code :: params).length := by
    rw [← bitsReceived_foldl, hall]
    rfl
  have hprefix : early.bytes <+: code :: params := by
    have h := bytes_prefix_foldl back early
    rwa [hall] at h
  change early.complete order p = none
  unfold Rx.complete
  split
  · next code' params' hbytes =>
    rw [if_neg]
    rintro ⟨hnbits, hcomplete⟩
    rw [hbytes, List.cons_prefix_cons] at hprefix
    obtain ⟨rfl, -⟩ := hprefix
    have hpositive := List.length_pos_iff.mpr hback
    simp only [bitsReceived, hbytes, hnbits, List.length_cons] at hcount
    omega
  · rfl

/-! ## The edges -/

/-- Clocking in bits that complete a request with the last of them runs it on the port as the last bit leaves it: its 2 ms anew
(R151), and MISO at 0 from the last falling edge (R147). -/
theorem execAll_edgesOf {s : State} {p : PortId} {left : Nat} {rx : Rx} {bits : List Bool} {i : Instr}
    (hf : (s.port p).framing = .request left rx) (hbits : bits ≠ [])
    (hearly : ∀ front back, bits = front ++ back → front ≠ [] → back ≠ [] →
      (front.foldl Rx.shift rx).complete (s.port p).settings.order p = none)
    (hlast : (bits.foldl Rx.shift rx).complete (s.port p).settings.order p = some i)
    (hmiso : (s.port p).miso = some false ∨ 2 ≤ bits.length) :
    execAll (edgesOf p bits) s = runRequest i
      (s.setPort p { s.port p with framing := .request 2000 (bits.foldl Rx.shift rx), miso := some false }) := by
  induction bits generalizing s left rx with
  | nil => exact absurd rfl hbits
  | cons bit rest ih =>
    have hrise : exec (.sclkEdge p .rise bit) s = s.requestRise p rx bit := by
      change execSclkEdge p .rise bit s = _
      unfold execSclkEdge
      rw [hf]
    cases rest with
    | nil =>
      have hlow : (s.port p).miso = some false := hmiso.resolve_right (by simp)
      have hport : s.updPort p (fun q => { q with framing := .request transactionTime (rx.shift bit) })
          = s.setPort p { s.port p with framing := .request 2000 (rx.shift bit), miso := some false } := by
        rw [State.updPort, ← hlow]
        rfl
      have hrun : s.requestRise p rx bit = runRequest i
          (s.setPort p { s.port p with framing := .request 2000 (rx.shift bit), miso := some false }) := by
        rw [← hport]
        unfold State.requestRise
        simp only [show (rx.shift bit).complete (s.port p).settings.order p = some i from hlast]
      simp only [edgesOf, execAll, hrise, hrun, List.foldl_cons, List.foldl_nil]
      split <;> simp only [*]
    | cons second later =>
      let risen := s.setPort p { s.port p with framing := .request 2000 (rx.shift bit) }
      let fallen := s.setPort p { s.port p with framing := .request 2000 (rx.shift bit), miso := some false }
      have hnone : (rx.shift bit).complete (s.port p).settings.order p = none :=
        hearly [bit] (second :: later) rfl (by simp) (by simp)
      have hup : exec (.sclkEdge p .rise bit) s = .next risen := by
        rw [hrise]
        unfold State.requestRise
        simp only [hnone]
        rfl
      have hdown : exec (.sclkEdge p .fall bit) risen = .next fallen := by
        change execSclkEdge p .fall bit risen = _
        unfold execSclkEdge
        simp only [risen, fallen, State.setPort_same, State.requestFall, State.updPort, State.setPort_setPort]
        rfl
      have hkept : fallen.port p = { s.port p with framing := .request 2000 (rx.shift bit), miso := some false } :=
        State.setPort_same s p _
      have hrest := ih (s := fallen) (left := 2000) (rx := rx.shift bit) (by rw [hkept]) (by simp)
        (fun front back heq hfront hback => by
          rw [hkept]
          exact hearly (bit :: front) back (by rw [heq, List.cons_append]) (by simp) hback)
        (by rw [hkept]; exact hlast) (.inl (by rw [hkept]))
      rw [hkept] at hrest
      simp only [edgesOf, execAll, hup, hdown, List.foldl_cons] at hrest ⊢
      rw [hrest]
      simp only [fallen, State.setPort_setPort]

/-- Settles O6: the bytes of a request complete it with their last bit, and it runs as the command does. -/
theorem requestClockedIn : Obligations.RequestClockedIn := by
  intro s p i bytes left hf hwf hp henc
  obtain ⟨code, params, rfl, hlength, hdecode⟩ := encodeRequest_decodes _ p hwf hp henc
  have hbits : ((code :: params).flatMap byteBits).foldl Rx.shift {} = { bytes := code :: params } :=
    foldl_bytesBits (code :: params) []
  have hsize : 2 ≤ ((code :: params).flatMap byteBits).length := by
    simp [List.flatMap_cons, byteBits]
    omega
  rw [exec_eq_runRequest _ p i hp, execAll_edgesOf hf (List.ne_nil_of_length_pos (by omega))
    (fun front back heq _ hback => complete_early hlength heq hback) (i := i) ?_ (.inr hsize), hbits]
  rw [hbits]
  unfold Rx.complete
  simp only [hlength, and_self, if_true]
  exact hdecode

end Sys2Proof.ClientPorts
end

section
/-!
PROOFS. A refused request (R158) (O4): the answer that refuses is the state as it was.
-/

namespace Sys2Proof.ClientPorts

open Sys2Proof.Machine Sys2Proof.KindsAndCurves Sys2Proof.StrokeRing

variable (s : State) (p : PortId)

/-- An answer accepts, or leaves the state as it was and fills no places. -/
def acceptsOrKeeps (s : State) (a : Answer) : Prop := a.reply.result.accepts = true ∨ a.state = s ∧ a.xfer = .none

theorem accepts_okUnless (clamped : Bool) : (ResultCode.okUnless clamped).accepts = true := by cases clamped <;> rfl

theorem acceptsOrKeeps_okUnless {a : Answer} (clamped : Bool) (h : a.reply.result = .okUnless clamped) :
    acceptsOrKeeps s a := .inl (h ▸ accepts_okUnless clamped)

/-! ## The cursors -/

theorem answerRead_acceptsOrKeeps (n : Byte) : acceptsOrKeeps s (s.answerRead p n) := by
  refine acceptsOrKeeps_okUnless s (decide (maxRead < n.toNat)) ?_
  unfold State.answerRead
  dsimp only
  split <;> rfl

theorem answerRewind_acceptsOrKeeps : acceptsOrKeeps s (s.answerRewind p) := by
  unfold State.answerRewind
  dsimp only
  split
  · exact .inr ⟨rfl, rfl⟩
  · split <;> exact .inl rfl

theorem answerCursorSetup_acceptsOrKeeps (mode : Byte) (ready margin : Half) :
    acceptsOrKeeps s (s.answerCursorSetup p mode ready margin) := by
  unfold State.answerCursorSetup
  split
  · exact .inr ⟨rfl, rfl⟩
  · exact acceptsOrKeeps_okUnless s _ rfl

/-! ## The ports and the sets -/

theorem answerPortSetup_acceptsOrKeeps (format order lapse : Byte) (enable : Half) :
    acceptsOrKeeps s (s.answerPortSetup p format order lapse enable) := by
  unfold State.answerPortSetup
  split
  · exact .inl rfl
  · exact .inr ⟨rfl, rfl⟩

theorem answerRelease_acceptsOrKeeps : acceptsOrKeeps s (s.answerRelease p) := by
  unfold State.answerRelease
  split
  · exact .inl rfl
  · exact .inr ⟨rfl, rfl⟩

/-! ## Configuration and curves -/

theorem answerConfigWrite_acceptsOrKeeps (id : Byte) (value : Half) : acceptsOrKeeps s (s.answerConfigWrite p id value) := by
  unfold State.answerConfigWrite
  dsimp only
  repeat' split
  case h_2 => exact acceptsOrKeeps_okUnless s _ rfl
  all_goals exact .inr ⟨rfl, rfl⟩

theorem answerConfigRead_acceptsOrKeeps (id : Byte) : acceptsOrKeeps s (s.answerConfigRead id) := by
  unfold State.answerConfigRead
  split <;> exact .inr ⟨rfl, rfl⟩

theorem answerCurveBegin_acceptsOrKeeps (number count : Byte) : acceptsOrKeeps s (s.answerCurveBegin p number count) := by
  unfold State.answerCurveBegin
  dsimp only
  repeat' split
  case h_2.isFalse => exact acceptsOrKeeps_okUnless s _ rfl
  all_goals exact .inr ⟨rfl, rfl⟩

theorem answerCurveKnot_acceptsOrKeeps (number : Byte) (input output : Half) :
    acceptsOrKeeps s (s.answerCurveKnot p number input output) := by
  unfold State.answerCurveKnot
  dsimp only
  repeat' split
  case h_3.isTrue => exact acceptsOrKeeps_okUnless s _ rfl
  all_goals exact .inr ⟨rfl, rfl⟩

theorem answerCurveRead_acceptsOrKeeps (number : Byte) : acceptsOrKeeps s (s.answerCurveRead number) := by
  unfold State.answerCurveRead
  split <;> exact .inr ⟨rfl, rfl⟩

/-! ## Captures -/

theorem answerCapture_acceptsOrKeeps (trigger : Byte) (first : Word) (second : Half) (drive : Byte) :
    acceptsOrKeeps s (s.answerCapture p trigger first second drive) := by
  unfold State.answerCapture
  dsimp only
  split
  · exact .inr ⟨rfl, rfl⟩
  · exact .inr ⟨rfl, rfl⟩
  · split
    · exact .inl rfl
    · exact .inr ⟨rfl, rfl⟩

theorem answerCaptureRead_acceptsOrKeeps (entry n fromStart : Byte) :
    acceptsOrKeeps s (s.answerCaptureRead p entry n fromStart) := by
  unfold State.answerCaptureRead
  dsimp only
  split
  · exact .inr ⟨rfl, rfl⟩
  · split
    · exact .inr ⟨rfl, rfl⟩
    · split
      · exact .inr ⟨rfl, rfl⟩
      · split
        · exact .inr ⟨rfl, rfl⟩
        · split
          · exact .inr ⟨rfl, rfl⟩
          · exact acceptsOrKeeps_okUnless s _ rfl

theorem answerCaptureRelease_acceptsOrKeeps (entry : Byte) : acceptsOrKeeps s (s.answerCaptureRelease p entry) := by
  unfold State.answerCaptureRelease
  dsimp only
  repeat' split
  case h_2.isFalse => exact .inl rfl
  all_goals exact .inr ⟨rfl, rfl⟩

/-! ## Every request -/

theorem requestAnswer_acceptsOrKeeps (i : Instr) : acceptsOrKeeps s (requestAnswer i s) := by
  cases i with
  | read p n => exact answerRead_acceptsOrKeeps s p n
  | rewind p => exact answerRewind_acceptsOrKeeps s p
  | cursorSetup p mode ready margin => exact answerCursorSetup_acceptsOrKeeps s p mode ready margin
  | portSetup p format order lapse enable => exact answerPortSetup_acceptsOrKeeps s p format order lapse enable
  | release p => exact answerRelease_acceptsOrKeeps s p
  | configWrite p id value => exact answerConfigWrite_acceptsOrKeeps s p id value
  | configRead p id => exact answerConfigRead_acceptsOrKeeps s id
  | curveBegin p number count => exact answerCurveBegin_acceptsOrKeeps s p number count
  | curveKnot p number input output => exact answerCurveKnot_acceptsOrKeeps s p number input output
  | curveRead p number => exact answerCurveRead_acceptsOrKeeps s number
  | capture p trigger first second drive => exact answerCapture_acceptsOrKeeps s p trigger first second drive
  | captureRead p entry n fromStart => exact answerCaptureRead_acceptsOrKeeps s p entry n fromStart
  | captureRelease p entry => exact answerCaptureRelease_acceptsOrKeeps s p entry
  | status _ | mark _ | ack _ _ | hold _ | run _ | stop _ | flush _ | portReset _ | checkReport _ | captureStatus _ =>
    exact .inl rfl
  | _ => exact .inr ⟨rfl, rfl⟩

/-- Settles O4: the response is that of the request's answer, and an answer that refuses keeps the state. -/
theorem refusedRequestChangesNothing : Obligations.RefusedRequestChangesNothing := by
  intro i s t p left resp hp hr hexec hresp hrefused
  rw [exec_eq_runRequest s p i hp] at hexec
  obtain heq | ⟨code, -, -, heq⟩ := runRequest_eq s p hp
  · cases heq.symm.trans hexec
    rw [State.onRequest_receiving s p _ hr] at hresp ⊢
    rw [State.answered, State.setPort_same] at hresp
    cases hresp
    obtain haccepts | ⟨hstate, hxfer⟩ := requestAnswer_acceptsOrKeeps s i
    · exact absurd (haccepts.symm.trans hrefused) (by simp)
    · rw [hstate, hxfer]
  · cases heq.symm.trans hexec
    rw [State.receiving, hresp] at hr
    cases hr

end Sys2Proof.ClientPorts
end

section
/-!
PROOFS. No command stops the block, and none touches the queue (log 1, 2, 7; R158) (O2).
-/

namespace Sys2Proof.ClientPorts

open Sys2Proof.Machine Sys2Proof.KindsAndCurves Sys2Proof.ScanEngine Sys2Proof.StrokeRing

variable (s : State) (p : PortId) (e : Fin 4) (i : SlotId) (time : Time)

/-! ## The ring, the ports and the captures -/

theorem pending_of_ringOnly {t : State} (h : s.ringOnly t) : t.pending = s.pending := by rw [h]

@[simp] theorem takeTogether_pending (busy : List PortId) : (s.takeTogether busy).pending = s.pending := by
  obtain ⟨n, h⟩ := s.takeTogether_ringOnly busy
  exact pending_of_ringOnly { s with choices := n } h

theorem forEntries_pending {f : Fin 4 → State → State} (hf : ∀ e u, (f e u).pending = u.pending) :
    (s.forEntries f).pending = s.pending := by simp only [State.forEntries, hf]

@[simp] theorem triggerArmed_pending (g : Trigger) : (State.triggerArmed g e s).pending = s.pending := by
  unfold State.triggerArmed
  split
  · split
    · exact (keepsLines_triggerHeld s e _).pending
    · rfl
  · rfl

@[simp] theorem contactEvent_pending : s.contactEvent.pending = s.pending :=
  forEntries_pending s fun e u => triggerArmed_pending u e .contact

@[simp] theorem failEntry_pending (h : Held) (reason : FailReason) : (s.failEntry e h reason).pending = s.pending := by
  simp [State.failEntry]

@[simp] theorem afterCopy_pending (h : Held) (target : Nat) : (s.afterCopy e h target).pending = s.pending := by
  unfold State.afterCopy
  split <;> simp

@[simp] theorem captureCopy_pending : (s.captureCopy e).pending = s.pending := by
  obtain h | ⟨x, w, -, -, -, ⟨r, -, h⟩ | ⟨-, h⟩⟩ := s.captureCopy_cases e <;> rw [h]
  · rw [afterCopy_pending]
  · rw [failEntry_pending]

@[simp] theorem readPlaceBegin_pending : (s.readPlaceBegin p).pending = s.pending :=
  pending_of_ringOnly s (s.readPlaceBegin_ringOnly p)

@[simp] theorem readRecordComplete_pending : (s.readRecordComplete p).pending = s.pending :=
  pending_of_ringOnly s (s.readRecordComplete_ringOnly p)

@[simp] theorem setResp_pending (left : Nat) (resp : Resp) : (s.setResp p left resp).pending = s.pending :=
  s.updPort_pending p _

@[simp] theorem captureReadPlaceBegin_pending : (s.captureReadPlaceBegin p).pending = s.pending := by
  unfold State.captureReadPlaceBegin
  repeat' split
  all_goals simp

@[simp] theorem advanceRead_pending (live : Bool) : (s.advanceRead e live).pending = s.pending := by
  unfold State.advanceRead
  split <;> simp

@[simp] theorem captureReadRecordComplete_pending : (s.captureReadRecordComplete p).pending = s.pending := by
  unfold State.captureReadRecordComplete
  repeat' split
  all_goals simp

/-! ## The slots and the sweep -/

@[simp] theorem leave_pending (t : Track) : (s.leave i t time).pending = s.pending := by
  obtain ⟨-, h⟩ | ⟨v, -, -, h⟩ := s.leave_cases time i t <;> simp [h]

@[simp] theorem goodFrame_pending (t : Track) (sm : Sample) : (s.goodFrame i t sm time).pending = s.pending := by
  unfold State.goodFrame
  dsimp only
  rw [State.setSlot_pending]
  split <;> split <;> simp

@[simp] theorem faintFrame_pending (t : Track) (sm : Sample) : (s.faintFrame i t sm time).pending = s.pending := by
  unfold State.faintFrame
  dsimp only
  split
  · exact leave_pending s i time t
  · split <;> simp

@[simp] theorem solveSlot_pending (got : List (TrackRead × Reading)) : (s.solveSlot got time i).pending = s.pending := by
  obtain ⟨-, h⟩ | ⟨t, -, ⟨-, h⟩ | ⟨-, h⟩⟩ := s.solveSlot_cases time i got <;> rw [h]
  · exact goodFrame_pending s i time t _
  · exact faintFrame_pending s i time t _

@[simp] theorem evaluateSweep_pending (sw : Sweep) : (s.evaluateSweep sw).pending = s.pending := by
  rw [slotsOnly_evaluateSweep s sw]

/-! ## The engine and its frames -/

@[simp] theorem setRun_pending (r : Run) : (s.setRun r).pending = s.pending := rfl

theorem completeCheck_pending (failed : Bool) : (s.completeCheck failed).pending = s.pending := by
  obtain ⟨-, h⟩ | ⟨-, -, h⟩ | ⟨-, -, h⟩ := s.completeCheck_cases failed <;> rw [h] <;> rfl

theorem classifyCoil_pending (pass : SensePass) (level : Nat) : (s.classifyCoil pass level).1.pending = s.pending := by
  unfold State.classifyCoil
  split <;> rfl

theorem coilSensingEnd_pending (level : Nat) : (s.coilSensingEnd level).pending = s.pending := by
  unfold State.coilSensingEnd
  split
  · next pass _ =>
    dsimp only
    split
    · split
      · exact classifyCoil_pending s pass level
      · exact (completeCheck_pending _ _).trans (classifyCoil_pending s pass level)
    · rfl
  all_goals rfl

theorem trackingEnd_pending (r : Run) (f : Frame) (cur : TrackRead) (rest : List TrackRead)
    (got : List (TrackRead × Reading)) (reading : Reading) : (s.trackingEnd r f cur rest got reading).pending = s.pending := by
  unfold State.trackingEnd
  split
  · rfl
  · simp [State.solveStage]

theorem searchEnd_pending (r : Run) (f : Frame) (budget : Nat) (sw : Sweep) (reading : Reading) :
    (s.searchEnd r f budget sw reading).pending = s.pending := by
  unfold State.searchEnd
  extract_lets kept
  split
  · simp
  · dsimp only
    split <;> rfl

theorem readingEnd_pending (reading : Reading) : (s.readingEnd reading).pending = s.pending := by
  unfold State.readingEnd
  split
  · split
    · split
      · exact trackingEnd_pending s _ _ _ _ _ reading
      · split
        · exact searchEnd_pending s _ _ _ _ reading
        · rfl
      all_goals rfl
    · rfl
  all_goals rfl

theorem endGuard_pending (r : Run) (f : Frame) : (s.endGuard r f).pending = s.pending := by
  unfold State.endGuard
  dsimp only
  repeat' split
  all_goals rfl

theorem guardExpiry_pending : s.guardExpiry.pending = s.pending := by
  unfold State.guardExpiry
  split
  · split
    · split
      · exact endGuard_pending s _ _
      all_goals rfl
    · rfl
  all_goals rfl

theorem frameStart_pending : s.frameStart.pending = s.pending := by
  unfold State.frameStart
  repeat' split
  all_goals rfl

theorem quietRise_pending : s.quietRise.pending = s.pending := by
  unfold State.quietRise
  dsimp only
  repeat' split
  all_goals rfl

theorem quietTimerExpiry_pending : s.quietTimerExpiry.pending = s.pending := by
  unfold State.quietTimerExpiry
  repeat' split
  all_goals rfl

/-! ## Framing and lapse -/

theorem csFall_pending : (s.csFall p).pending = s.pending := by
  unfold State.csFall
  split <;> simp

theorem abandon_pending : (s.abandon p).pending = s.pending := by
  unfold State.abandon
  split <;> simp

@[simp] theorem dropClaims_pending : (s.dropClaims p).pending = s.pending := (keepsLines_dropClaims s p).pending

theorem lapseTimerExpiry_pending : (s.lapseTimerExpiry p).pending = s.pending := by
  unfold State.lapseTimerExpiry
  dsimp only
  split
  · split <;> simp [State.lapse]
  · rfl

/-! ## Requests and their bits -/

/-- An outcome is a next state with the queue as it was. -/
def keepsQueue (s : State) (o : Host.Outcome State Fault Refusal) : Prop := ∃ t, o = .next t ∧ t.pending = s.pending

theorem requestAnswer_pending (j : Instr) : (requestAnswer j s).state.pending = s.pending := by
  by_cases hj : setsLine j = false
  · exact (requestAnswer_keepsLines s hj).pending
  · cases j with
    | portSetup q format order lapse enable =>
      simp only [requestAnswer, State.answerPortSetup]
      split <;> simp
    | portReset q => simp [requestAnswer, State.answerPortReset]
    | _ => exact absurd rfl hj

theorem onRequest_pending {f : State → Answer} (hf : (f s).state.pending = s.pending) :
    (s.onRequest p f).pending = s.pending := by
  cases hr : s.receiving p with
  | false => rw [State.onRequest_not_receiving s p f hr]
  | true => rw [State.onRequest_receiving s p f hr, State.answered_pending, hf]

theorem runRequest_keepsQueue (j : Instr) : keepsQueue s (runRequest j s) := by
  cases hj : j.requestPort with
  | none => exact ⟨s, runRequest_event s hj, rfl⟩
  | some p =>
    obtain heq | ⟨-, -, -, heq⟩ := runRequest_eq s p hj
    · exact ⟨_, heq, onRequest_pending s p (requestAnswer_pending s j)⟩
    · exact ⟨s, heq, rfl⟩

theorem execSclkEdge_keepsQueue (edge : ClockEdge) (mosi : Bool) : keepsQueue s (execSclkEdge p edge mosi s) := by
  unfold execSclkEdge
  split
  · unfold State.requestRise
    dsimp only
    split
    · obtain ⟨t, ht, hpending⟩ := runRequest_keepsQueue (s.updPort p _) _
      exact ⟨t, ht, hpending.trans (s.updPort_pending p _)⟩
    · exact ⟨_, rfl, s.updPort_pending p _⟩
  · exact ⟨_, rfl, s.updPort_pending p _⟩
  · refine ⟨_, rfl, ?_⟩
    unfold State.responseRise State.placeComplete
    split <;> simp
  · refine ⟨_, rfl, ?_⟩
    unfold State.responseFall State.placeBegin State.shiftOut
    split <;> simp
  all_goals exact ⟨s, rfl, rfl⟩

/-! ## Every command -/

/-- Settles O2: a request by its answer, an event by its meaning. -/
theorem everyCommandHasNextState : Obligations.EveryCommandHasNextState := by
  intro j s
  have hrequest (p : PortId) (hp : j.requestPort = some p) : keepsQueue s (exec j s) :=
    exec_eq_runRequest s p j hp ▸ runRequest_keepsQueue s j
  cases j with
  | fullReset tile1 tile0 cs0 cs1 quiet => exact ⟨_, rfl, rfl⟩
  | csFall p => exact ⟨_, rfl, csFall_pending s p⟩
  | csRise p => exact ⟨_, rfl, s.updPort_pending p _⟩
  | transactionAbandoned p => exact ⟨_, rfl, abandon_pending s p⟩
  | lapseTimerExpiry p => exact ⟨_, rfl, lapseTimerExpiry_pending s p⟩
  | frameStart => exact ⟨_, rfl, frameStart_pending s⟩
  | readingEnd amplitude phase => exact ⟨_, rfl, readingEnd_pending s _⟩
  | guardExpiry => exact ⟨_, rfl, guardExpiry_pending s⟩
  | coilSensingEnd level => exact ⟨_, rfl, coilSensingEnd_pending s _⟩
  | quietRise => exact ⟨_, rfl, quietRise_pending s⟩
  | quietFall => exact ⟨_, rfl, rfl⟩
  | quietTimerExpiry => exact ⟨_, rfl, quietTimerExpiry_pending s⟩
  | tsyncFall => exact ⟨_, rfl, forEntries_pending s fun e u => triggerArmed_pending u e .sync⟩
  | tsyncPulseExpiry =>
    refine ⟨_, rfl, ?_⟩
    split <;> rfl
  | captureCopy entry => exact ⟨_, rfl, captureCopy_pending s entry⟩
  | readPlaceBegin p => exact ⟨_, rfl, readPlaceBegin_pending s p⟩
  | readRecordComplete p => exact ⟨_, rfl, readRecordComplete_pending s p⟩
  | captureReadPlaceBegin p => exact ⟨_, rfl, captureReadPlaceBegin_pending s p⟩
  | captureReadRecordComplete p => exact ⟨_, rfl, captureReadRecordComplete_pending s p⟩
  | sclkEdge p edge mosi => exact execSclkEdge_keepsQueue s p edge mosi
  | timestampCounterTick => exact ⟨_, rfl, rfl⟩
  | _ => exact hrequest _ rfl

end Sys2Proof.ClientPorts
end

section
/-!
PROOFS. ACK (R159, R160, R162) (O16): the set it leaves, condition by condition and then in the two-byte form.
-/

namespace Sys2Proof.ClientCursors

open Sys2Proof.Machine

variable (s : State) (p : PortId)

/-- A set of conditions without the latched conditions another names; the level conditions are not removed (R162). -/
def acked (a named : CondSet) : CondSet := { a with latched := a.latched.without named.latched }

theorem conditions_acked (a named : CondSet) (i : Nat) :
    (conditions (acked a named)).getD i false
      = ((conditions a).getD i false && !(decide (2 ≤ i) && (conditions named).getD i false)) := by
  by_cases hi : i < 11
  · interval_cases i <;> simp [conditions, acked, Latched.without]
  · have hend (x : CondSet) : (conditions x).getD i false = false :=
      List.getD_eq_default _ _ (by rw [length_conditions]; omega)
    rw [hend, hend, Bool.false_and]

/-- The latched conditions among the eleven are bits 2 to 10. -/
theorem latchedMask_getLsbD {i : Nat} (hi : i < 16) :
    (0x07FC#16).getLsbD i = (decide (2 ≤ i) && (0x07FF#16).getLsbD i) := by
  interval_cases i <;> rfl

theorem toHalf_acked (a : CondSet) (conds : Half) :
    (acked a (CondSet.ofHalf conds)).toHalf = a.toHalf &&& ~~~(conds &&& 0x07FC#16) := by
  refine BitVec.eq_of_getLsbD_eq fun i hi => ?_
  have hnamed : (conditions (CondSet.ofHalf conds)).getD i false = (conds.getLsbD i && (0x07FF#16).getLsbD i) := by
    rw [← toHalf_getLsbD, toHalf_ofHalf, BitVec.getLsbD_and]
  rw [toHalf_getLsbD, conditions_acked, hnamed, BitVec.getLsbD_and, BitVec.getLsbD_not, BitVec.getLsbD_and,
    latchedMask_getLsbD hi, toHalf_getLsbD, Bool.and_left_comm, decide_eq_true hi, Bool.true_and]

/-- The level conditions do not depend on the latched set of the port. -/
theorem pendingSet_setLatched (l : Latched) :
    (s.setPort p { s.port p with latched := l }).pendingSet p = { s.pendingSet p with latched := l } := by
  cases p <;> rfl

/-- Settles O16: the set left is the pending set acked, and the answer is its two-byte form. -/
theorem ackRemovesNamed : Obligations.AckRemovesNamed := by
  intro s p conds hr left
  let l : Latched := (s.port p).latched.without (CondSet.ofHalf conds).latched
  have hleft : ((s.setPort p { s.port p with latched := l }).pendingSet p).toHalf = left := by
    rw [pendingSet_setLatched]
    exact toHalf_acked (s.pendingSet p) conds
  refine ⟨l, congrArg Host.Outcome.next ?_, hleft⟩
  rw [State.onRequest_receiving s p _ hr, ← hleft]
  rfl

end Sys2Proof.ClientCursors
end

section
/-!
PROOFS. One step of the block on its queue (O1; the queue and the idling are the model's own, log 1): an equation for each shape
of the queue.
-/

namespace Sys2Proof.CommandQueue

open Sys2Proof.Machine

theorem step_of_pending_nil {s : State} (hempty : s.pending = []) : step s = .next s := by
  rw [step, hempty]

theorem step_of_pending_cons {s : State} {i : Instr} {rest : List Instr} (hfront : s.pending = i :: rest) :
    step s = exec i { s with pending := rest } := by
  rw [step, hfront]

/-- Settles O1: the queue is empty or has a command at its front, and each shape has its equation. -/
theorem stepTakesFrontCommand : Obligations.StepTakesFrontCommand :=
  ⟨fun _ _ _ hfront => step_of_pending_cons hfront, fun _ hempty => step_of_pending_nil hempty⟩

end Sys2Proof.CommandQueue
end

section
/-!
PROOFS. Every step keeps the law of the curves (R22): only CURVE BEGIN, CURVE KNOT and the loss of a load owner touch a curve (O59).
-/

namespace Sys2Proof.KindsAndCurves

open Sys2Proof.Machine
open Sys2Proof.StrokeRing (requestAnswer runRequest_eq runRequest_event)

variable (s t : State) (p : PortId)

theorem orphan_lawful (c : Curve) : (c.orphan p).lawful = c.lawful := by cases c <;> rfl

theorem curveLaw_of_keepsConfigButOwner {s t : State} (h : keepsConfigButOwner s t) (hs : s.curveLaw) : t.curveLaw := by
  intro c
  obtain ⟨-, hc | ⟨p, hc⟩⟩ := h
  · rw [hc]
    exact hs c
  · rw [hc, Fin.getElem_fin, Vector.getElem_map, orphan_lawful]
    exact hs c

theorem curveLaw_setCurve (hs : s.curveLaw) (c : Fin 4) {x : Curve} (hx : x.lawful = true) : (s.setCurve c x).curveLaw := by
  intro d
  show ((s.curves.set c x)[d]).lawful = true
  rw [Fin.getElem_fin, Vector.getElem_set]
  split
  · exact hx
  · exact hs d

theorem curveLaw_answerCurveBegin (hs : s.curveLaw) (number count : Byte) :
    (s.answerCurveBegin p number count).state.curveLaw := by
  have hbegun : (Curve.loading (clampNat 2 16 count.toNat) [] (some p)).lawful = true := by
    have hbounds : 2 ≤ clampNat 2 16 count.toNat ∧ clampNat 2 16 count.toNat ≤ 16 := by
      unfold clampNat
      omega
    simp [Curve.lawful, hbounds, Nat.lt_of_lt_of_le Nat.zero_lt_two hbounds.1]
  unfold State.answerCurveBegin
  split
  · exact hs
  · split
    · exact hs
    · split
      · exact hs
      · split
        · exact hs
        · exact curveLaw_setCurve s hs _ hbegun

/-- A knot stored in a LOADING curve (R27): the curve is LOADED at its knot count, LOADING with room left below it. -/
theorem storeKnot_lawful {count : Nat} {knots : List Knot} {owner : Option PortId} {k : Knot}
    (hc : (Curve.loading count knots owner).lawful = true) (hk : k.lawful = true) :
    (storeKnot count knots owner k).lawful = true := by
  simp only [Curve.lawful, Bool.and_eq_true, decide_eq_true_eq] at hc
  obtain ⟨⟨⟨hlow, hhigh⟩, hroom⟩, hall⟩ := hc
  have hall' : (knots ++ [k]).all Knot.lawful = true := by simp [hall, hk]
  unfold storeKnot
  split
  · rename_i hfull
    simp only [Curve.lawful, hall', hfull, Bool.and_true, Bool.and_eq_true, decide_eq_true_eq]
    exact ⟨hlow, hhigh⟩
  · rename_i hpart
    rw [List.length_append, List.length_singleton] at hpart
    simp only [Curve.lawful, hall', List.length_append, List.length_singleton, Bool.and_true, Bool.and_eq_true,
      decide_eq_true_eq]
    exact ⟨⟨hlow, hhigh⟩, by omega⟩

theorem clampedKnot_lawful (a b : Nat) : ({ input := clampNat 0 4095 a, output := clampNat 0 8191 b } : Knot).lawful = true := by
  simp [Knot.lawful, clampNat]

theorem curveLaw_answerCurveKnot (hs : s.curveLaw) (number : Byte) (input output : Half) :
    (s.answerCurveKnot p number input output).state.curveLaw := by
  unfold State.answerCurveKnot
  split
  · exact hs
  · split
    · exact hs
    · rename_i c _
      split
      · exact hs
      · exact hs
      · rename_i count knots owner hc
        split
        · exact curveLaw_setCurve s hs c (storeKnot_lawful (hc ▸ hs c) (clampedKnot_lawful _ _))
        · exact hs

theorem answerConfigWrite_curves (id : Byte) (value : Half) : (s.answerConfigWrite p id value).state.curves = s.curves := by
  have hstore (i : Item) (v : Nat) : (s.storeItem i v).curves = s.curves := by
    unfold State.storeItem
    repeat' split
    all_goals simp [State.geometryFlush, State.forPorts, State.clampThresholds]
  unfold State.answerConfigWrite
  dsimp only
  repeat' split
  all_goals first
    | rfl
    | exact hstore _ _

theorem curveLaw_requestAnswer (hs : s.curveLaw) (i : Instr) : (requestAnswer i s).state.curveLaw := by
  have hkept (u : State) (h : keepsConfigButOwner s u) : u.curveLaw := curveLaw_of_keepsConfigButOwner h hs
  have hring (p : PortId) (f : State → Answer) (hf : ringRequest i = some (p, f)) : (f s).state.curveLaw :=
    hkept _ (keepsConfig_of_ringOnly (ringRequest_ringOnly s p hf)).butOwner
  cases i with
  | read p n => exact hring p _ rfl
  | mark p => exact hring p _ rfl
  | rewind p => exact hring p _ rfl
  | cursorSetup p mode ready margin => exact hring p _ rfl
  | flush p => exact hring p _ rfl
  | portSetup p format order lapse enable => exact hkept _ (keepsConfig_answerPortSetup s p _ _ _ _).butOwner
  | ack p conds => exact hkept _ (keepsConfig_setPort s p _).butOwner
  | hold p => exact hkept _ (keepsConfig_holdEffect s p).butOwner
  | release p => exact hkept _ (keepsConfig_answerRelease s p).butOwner
  | run p => exact hkept _ (keepsConfig_runEffect s p).butOwner
  | stop p => exact hkept _ (keepsConfig_stopEffect s p).butOwner
  | portReset p => exact hkept _ (keepsConfigButOwner_answerPortReset s p)
  | configWrite p id value =>
    unfold State.curveLaw
    rw [show (requestAnswer (.configWrite p id value) s).state.curves = s.curves from answerConfigWrite_curves s p id value]
    exact hs
  | configRead p id => exact (answerConfigRead_state s id).symm ▸ hs
  | curveBegin p number count => exact curveLaw_answerCurveBegin s p hs number count
  | curveKnot p number input output => exact curveLaw_answerCurveKnot s p hs number input output
  | curveRead p number => exact (answerCurveRead_state s number).symm ▸ hs
  | capture p trigger first second drive => exact hkept _ (keepsConfig_answerCapture s p _ _ _ _).butOwner
  | captureRead p entry n fromStart => exact hkept _ (keepsConfig_answerCaptureRead s p _ _ _).butOwner
  | captureRelease p entry => exact hkept _ (keepsConfig_answerCaptureRelease s p _).butOwner
  | _ => exact hs

theorem curveLaw_runRequest (hs : s.curveLaw) {i : Instr} (h : runRequest i s = .next t) : t.curveLaw := by
  cases hi : i.requestPort with
  | none =>
    cases (runRequest_event s hi).symm.trans h
    exact hs
  | some p =>
    obtain heq | ⟨-, -, -, heq⟩ := runRequest_eq s p hi
    · cases heq.symm.trans h
      have hf := curveLaw_requestAnswer s hs i
      unfold State.onRequest
      split
      · exact curveLaw_of_keepsConfigButOwner (keepsConfig_setPort _ p _).butOwner hf
      all_goals exact hs
    · cases heq.symm.trans h
      exact hs

theorem curveLaw_execSclkEdge (hs : s.curveLaw) {edge : ClockEdge} {mosi : Bool} (h : execSclkEdge p edge mosi s = .next t) :
    t.curveLaw := by
  have hkept {u v : State} (hu : u.curveLaw) (hk : keepsConfig u v) : v.curveLaw :=
    curveLaw_of_keepsConfigButOwner hk.butOwner hu
  have hline (x : Port) : (s.setPort p x).curveLaw := hkept hs (keepsConfig_setPort s p x)
  unfold execSclkEdge at h
  split at h
  · unfold State.requestRise at h
    dsimp only at h
    split at h
    · exact curveLaw_runRequest _ t (hline _) h
    · cases h
      exact hline _
  · cases h
    exact hline _
  · cases h
    refine hkept hs (keepsConfig_ite ?_ (keepsConfig_setPort s p _))
    exact keepsConfig_trans (keepsConfig_readRecordComplete s p) (keepsConfig_captureReadRecordComplete _ p)
  · cases h
    refine hkept hs (keepsConfig_trans (keepsConfig_ite ?_ (keepsConfig_refl s)) (keepsConfig_setPort _ p _))
    exact keepsConfig_trans (keepsConfig_readPlaceBegin s p) (keepsConfig_captureReadPlaceBegin _ p)
  all_goals
    cases h
    exact hs

theorem curveLaw_reset (tile1 tile0 cs0 cs1 quiet : Bool) : (State.resetWith tile1 tile0 cs0 cs1 quiet).curveLaw := by
  intro c
  show (#v[Curve.linear, .empty, .empty, .empty][c]).lawful = true
  fin_cases c <;> rfl

/-- An event other than a clock edge and a full reset keeps the configuration in every state of the engine. -/
theorem exec_event_keepsConfig (i : Instr) (h : exec i s = .next t) (hi : i.requestPort = none)
    (hedge : ∀ p edge mosi, i ≠ .sclkEdge p edge mosi) (hreset : ∀ a b c d e, i ≠ .fullReset a b c d e) :
    keepsConfigButOwner s t := by
  have hkeep {u : State} (hu : exec i s = .next u) (hk : keepsConfigButOwner s u) : keepsConfigButOwner s t := by
    cases hu.symm.trans h
    exact hk
  cases i with
  | fullReset a b c d e => exact absurd rfl (hreset a b c d e)
  | sclkEdge p edge mosi => exact absurd rfl (hedge p edge mosi)
  | csFall p => exact hkeep rfl (keepsConfig_csFall s p).butOwner
  | csRise p => exact hkeep rfl (keepsConfig_setPort s p _).butOwner
  | transactionAbandoned p => exact hkeep rfl (keepsConfig_abandon s p).butOwner
  | lapseTimerExpiry p => exact hkeep rfl (keepsConfigButOwner_lapseTimerExpiry s p)
  | frameStart => exact hkeep rfl (keepsConfig_frameStart s).butOwner
  | readingEnd amplitude phase => exact hkeep rfl (keepsConfig_readingEnd s _).butOwner
  | guardExpiry => exact hkeep rfl (keepsConfig_guardExpiry s).butOwner
  | coilSensingEnd level => exact hkeep rfl (keepsConfig_coilSensingEnd s _).butOwner
  | quietRise => exact hkeep rfl (keepsConfig_quietRise s).butOwner
  | quietFall => exact hkeep rfl ⟨rfl, .inl rfl⟩
  | quietTimerExpiry => exact hkeep rfl (keepsConfig_quietTimerExpiry s).butOwner
  | tsyncFall => exact hkeep rfl (keepsConfig_forEntries s _ fun e u => keepsConfig_triggerArmed u e .sync).butOwner
  | tsyncPulseExpiry => exact hkeep rfl (keepsConfig_ite (t := { s with pulse := none }) ⟨rfl, rfl⟩ (keepsConfig_refl s)).butOwner
  | captureCopy e => exact hkeep rfl (keepsConfig_captureCopy s e).butOwner
  | readPlaceBegin p => exact hkeep rfl (keepsConfig_readPlaceBegin s p).butOwner
  | readRecordComplete p => exact hkeep rfl (keepsConfig_readRecordComplete s p).butOwner
  | captureReadPlaceBegin p => exact hkeep rfl (keepsConfig_captureReadPlaceBegin s p).butOwner
  | captureReadRecordComplete p => exact hkeep rfl (keepsConfig_captureReadRecordComplete s p).butOwner
  | timestampCounterTick => exact hkeep rfl ⟨rfl, .inl rfl⟩
  | _ => cases hi

theorem exec_keepsCurveLaw (i : Instr) (h : exec i s = .next t) (hs : s.curveLaw) : t.curveLaw := by
  by_cases hedge : ∃ p edge mosi, i = .sclkEdge p edge mosi
  · obtain ⟨p, edge, mosi, rfl⟩ := hedge
    exact curveLaw_execSclkEdge s t p hs h
  · by_cases hreset : ∃ a b c d e, i = .fullReset a b c d e
    · obtain ⟨a, b, c, d, e, rfl⟩ := hreset
      cases h
      exact curveLaw_reset a b c d e
    · cases hi : i.requestPort with
      | some p => exact curveLaw_runRequest s t hs ((exec_eq_runRequest s p i hi).symm.trans h)
      | none =>
        exact curveLaw_of_keepsConfigButOwner (exec_event_keepsConfig s t i h hi
          (fun p edge mosi he => hedge ⟨p, edge, mosi, he⟩) (fun a b c d e he => hreset ⟨a, b, c, d, e, he⟩)) hs

end Sys2Proof.KindsAndCurves
end

section
/-!
PROOFS. Every step keeps the law of the map and the report (R8, R10, R12, R44) under the engine's law: the lists and the report
grow by the coil being sensed, whose number is above all that are listed, and everything else leaves both or clears them (O59).
-/

namespace Sys2Proof.ScanEngine

open Sys2Proof.Machine Sys2Proof.KindsAndCurves

variable (s t : State) (p : PortId)

/-! ## The law of the lists and the report, and what the engine asks beside it -/

/-- The report holds at most 16 findings, and 16 when it is truncated (R44). -/
def reportLaw (r : Report) : Prop := r.findings.length ≤ 16 ∧ (r.truncated = true → r.findings.length = 16)

/-- The part of the law that reads no engine (R8, R44). -/
def listsLaw (m : DefectMap) (r : Report) : Prop := m.x.lawful ∧ m.y.lawful ∧ reportLaw r

/-- Whether a FULL sensing pass is in flight. -/
def sensing : Engine → Bool
  | .checking _ => true
  | .halted | .idle | .scanning _ => false

theorem listsLaw_of_checkLaw {s : State} (h : s.checkLaw) : listsLaw s.map s.report := by
  obtain ⟨hx, hy, -, -, -, hr⟩ := h
  exact ⟨hx, hy, hr⟩

/-- Outside a pass the map is VALID or empty, and VALID after a check that passed. -/
theorem checkLaw_of_not_sensing {s : State} (he : sensing s.engine = false) (hl : listsLaw s.map s.report)
    (hm : s.map.valid = true ∨ s.map = DefectMap.invalid ∧ s.engine.hasPassed = false) : s.checkLaw := by
  obtain ⟨hx, hy, hr⟩ := hl
  refine ⟨hx, hy, ?_, fun hv => ?_, fun hp => ?_, hr⟩
  · cases hs : s.engine with
    | checking pass => rw [hs] at he; cases he
    | _ => trivial
  · exact hm.elim (fun h => absurd (h.symm.trans hv) (by decide)) fun h => .inl h.1
  · exact hm.elim id fun h => absurd (hp.symm.trans h.2) (by decide)

theorem map_of_not_sensing {s : State} (h : s.checkLaw) (he : sensing s.engine = false) :
    s.map.valid = true ∨ s.map = DefectMap.invalid ∧ s.engine.hasPassed = false := by
  obtain ⟨-, -, -, hinvalid, hpassed, -⟩ := h
  cases hv : s.map.valid with
  | true => exact .inl rfl
  | false =>
    refine .inr ⟨(hinvalid hv).resolve_right ?_, Bool.eq_false_iff.mpr fun hp => ?_⟩
    · rintro ⟨pass, hp⟩
      rw [hp] at he
      cases he
    · rw [hpassed hp] at hv
      cases hv

/-- During a pass the law asks for the lists, and that they lie below the coil being sensed (R10). -/
theorem checkLaw_of_sensing {s : State} {pass : SensePass} (he : s.engine = .checking pass) (hl : listsLaw s.map s.report)
    (hp : (Engine.checking pass).passLaw s.map) : s.checkLaw := by
  obtain ⟨hx, hy, hr⟩ := hl
  refine ⟨hx, hy, he ▸ hp, fun _ => .inr ⟨pass, he⟩, fun h => ?_, hr⟩
  rw [he] at h
  cases h

theorem checkLaw_congr {s t : State} (hm : t.map = s.map) (hr : t.report = s.report) (he : t.engine = s.engine)
    (h : s.checkLaw) : t.checkLaw := by
  unfold State.checkLaw
  rw [hm, hr, he]
  exact h

theorem checkLaw_of_aside {s t : State} (h : aside s t) (hs : s.checkLaw) : t.checkLaw := by
  unfold aside at h
  rw [h]
  exact hs

/-- The map and the report as they were. -/
def checkKept (s t : State) : Prop := t.map = s.map ∧ t.report = s.report

theorem checkKept_trans {s t u : State} (h : checkKept s t) (k : checkKept t u) : checkKept s u :=
  ⟨k.1.trans h.1, k.2.trans h.2⟩

/-- Outside a pass the engine may move to any state that asks no more of the map. -/
theorem checkLaw_engineMoves {s t : State} (h : s.checkLaw) (hk : checkKept s t) (hs : sensing s.engine = false)
    (ht : sensing t.engine = false) (hp : t.engine.hasPassed = true → s.engine.hasPassed = true) : t.checkLaw := by
  obtain ⟨hm, hr⟩ := hk
  refine checkLaw_of_not_sensing ht (by rw [hm, hr]; exact listsLaw_of_checkLaw h) ?_
  rw [hm]
  refine (map_of_not_sensing h hs).imp_right fun ⟨hinvalid, hnot⟩ => ⟨hinvalid, ?_⟩
  exact Bool.eq_false_iff.mpr fun hpass => absurd (hnot.symm.trans (hp hpass)) (by decide)

/-! ## Reports and lists that grow -/

theorem reportLaw_addAll {r : Report} (h : reportLaw r) (fs : List Finding) : reportLaw (r.addAll fs) := by
  obtain ⟨hlen, htrunc⟩ := h
  rw [Report.addAll_take r fs hlen]
  refine ⟨List.length_take_le 16 _, fun ht => ?_⟩
  rw [List.length_take, List.length_append]
  simp only [Bool.or_eq_true, decide_eq_true_eq] at ht
  obtain ht | ht := ht
  · have := htrunc ht
    omega
  · omega

theorem reportLaw_reportOf (outcome : CheckOutcome) (fs : List Finding) : reportLaw (reportOf outcome fs) := by
  refine ⟨List.length_take_le 16 _, fun ht => ?_⟩
  simp only [reportOf, decide_eq_true_eq] at ht
  simp only [reportOf, List.length_take]
  omega

theorem none_lawful : AxisDefects.none.lawful := ⟨Nat.zero_le 8, List.Pairwise.nil, fun h => absurd h (Nat.lt_irrefl 0)⟩

/-- A defective coil above all that are listed keeps the law of its axis (R8). -/
theorem add_lawful {d : AxisDefects} (h : d.lawful) {c : Defect} (hc : ∀ x ∈ d.listed.map Defect.coil, x < c.coil) :
    (d.add c).lawful := by
  obtain ⟨hlen, hrising, hunlisted⟩ := h
  unfold AxisDefects.add
  split
  · rename_i hroom
    refine ⟨?_, ?_, fun hu => absurd (hunlisted hu) (Nat.ne_of_lt hroom)⟩
    · simp only [List.length_append, List.length_singleton]
      omega
    · simp only [List.map_append, List.map_cons, List.map_nil]
      exact List.pairwise_append.mpr ⟨hrising, List.pairwise_singleton _ _, fun x hx y hy => List.mem_singleton.mp hy ▸ hc x hx⟩
  · rename_i hfull
    exact ⟨hlen, hrising, fun _ => Nat.le_antisymm hlen (Nat.le_of_not_lt hfull)⟩

theorem mem_coils_add {d : AxisDefects} {c : Defect} {x : Nat} (hx : x ∈ (d.add c).listed.map Defect.coil) :
    x ∈ d.listed.map Defect.coil ∨ x = c.coil := by
  unfold AxisDefects.add at hx
  split at hx
  · simpa [or_comm] using hx
  · exact .inl hx

/-! ## The sensing pass (R10) -/

/-- The coils listed on the axis of a pass are below the coil being sensed, and none of Y is listed before its axis. -/
theorem passLaw_iff (m : DefectMap) (pass : SensePass) :
    (Engine.checking pass).passLaw m ↔ (∀ c ∈ m.coils pass.axis, c < pass.coil) ∧ (pass.axis = .x → m.y = .none) := by
  unfold Engine.passLaw
  cases ha : pass.axis <;> simp [ha]

/-- What the classification of a coil leaves (R10, R11): the lists lawful, those of the axis at most up to the coil, and of the
other axis as they were. -/
structure Classified (s t : State) (pass : SensePass) : Prop where
  lists : listsLaw t.map t.report
  upTo : ∀ c ∈ t.map.coils pass.axis, c < pass.coil + 1
  other : pass.axis = .x → t.map.y = s.map.y

theorem classifyCoil_classified (pass : SensePass) (level : Nat) (hl : listsLaw s.map s.report)
    (hp : (Engine.checking pass).passLaw s.map) : Classified s (s.classifyCoil pass level).1 pass := by
  obtain ⟨hbelow, -⟩ := (passLaw_iff _ _).mp hp
  obtain ⟨hx, hy, hr⟩ := hl
  unfold State.classifyCoil
  split
  · exact ⟨⟨hx, hy, hr⟩, fun c hc => Nat.lt_succ_of_lt (hbelow c hc), fun _ => rfl⟩
  · rename_i reason _
    have hadded : ∀ c ∈ ((s.map.axis pass.axis).add { coil := pass.coil, reason := reason }).listed.map Defect.coil,
        c < pass.coil + 1 := fun c hc =>
      (mem_coils_add hc).elim (fun h => Nat.lt_succ_of_lt (hbelow c h)) fun h => h ▸ Nat.lt_succ_self _
    have hreport := reportLaw_addAll hr
    cases ha : pass.axis with
    | x =>
      simp only [ha] at hbelow hadded ⊢
      exact ⟨⟨add_lawful hx hbelow, hy, hreport _⟩, by rw [ha]; exact hadded, fun _ => rfl⟩
    | y =>
      simp only [ha] at hbelow hadded ⊢
      exact ⟨⟨hx, add_lawful hy hbelow, hreport _⟩, by rw [ha]; exact hadded, fun h => by rw [ha] at h; cases h⟩

/-- The coil sensed next lies above all that are listed on its axis (R10). -/
theorem passLaw_next {pass next : SensePass} (hp : (Engine.checking pass).passLaw s.map) (hc : Classified s t pass)
    (hn : pass.nextCoil t.items = some (next.axis, next.coil)) : (Engine.checking next).passLaw t.map := by
  obtain ⟨-, hnone⟩ := (passLaw_iff _ _).mp hp
  have hother : pass.axis = .x → t.map.y = .none := fun ha => (hc.other ha).trans (hnone ha)
  rw [passLaw_iff]
  unfold SensePass.nextCoil at hn
  split at hn
  · obtain ⟨ha, hcoil⟩ := Prod.mk.inj (Option.some.inj hn)
    rw [← ha, ← hcoil]
    exact ⟨hc.upTo, hother⟩
  · split at hn
    · rename_i hx
      obtain ⟨ha, hcoil⟩ := Prod.mk.inj (Option.some.inj hn)
      rw [← ha, DefectMap.coils, DefectMap.axis, hother hx]
      exact ⟨fun c hmem => absurd hmem (List.not_mem_nil), fun h => absurd h (by decide)⟩
    · cases hn

theorem checkLaw_completeCheck (failed : Bool) (hl : listsLaw s.map s.report) (hv : s.map.valid = true) :
    (s.completeCheck failed).checkLaw := by
  obtain ⟨-, h⟩ | ⟨-, -, h⟩ | ⟨-, -, h⟩ := s.completeCheck_cases failed <;> rw [h]
  all_goals exact checkLaw_of_not_sensing rfl hl (.inl hv)

theorem checkLaw_coilSensingEnd (level : Nat) (h : s.checkLaw) : (s.coilSensingEnd level).checkLaw := by
  unfold State.coilSensingEnd
  split
  · rename_i pass he
    have hp : (Engine.checking pass).passLaw s.map := he ▸ h.2.2.1
    have hc := classifyCoil_classified s pass level (listsLaw_of_checkLaw h) hp
    split
    · dsimp only
      split
      · rename_i a c hn
        refine checkLaw_of_sensing rfl hc.lists (passLaw_next s (s.classifyCoil pass level).1 hp hc ?_)
        rw [(classifyCoil_besideCheck s pass level).1]
        exact hn
      · exact checkLaw_completeCheck _ _ hc.lists rfl
    · exact h
  all_goals exact h

/-! ## The other moves of the engine -/

theorem checkLaw_startCheck (h : s.checkLaw) (he : s.engine = .halted) : s.startCheck.checkLaw := by
  obtain ⟨hx, hy, -⟩ := listsLaw_of_checkLaw h
  have hends (e : Engine) (outcome : CheckOutcome) (fs : List Finding) (failed : Bool) (hs : sensing e = false)
      (hm : s.map.valid = true ∨ s.map = DefectMap.invalid ∧ e.hasPassed = false) :
      (checkedTo s e s.map (reportOf outcome fs) failed).checkLaw :=
    checkLaw_of_not_sensing hs ⟨hx, hy, reportLaw_reportOf _ _⟩ hm
  have hpassed : sensing (passedTo s) = false := by
    unfold passedTo
    split <;> rfl
  by_cases hfound : configFindings s.items s.curves = []
  · by_cases hs : s.sensesArray = true
    · rw [startCheck_senses s hfound hs]
      refine checkLaw_of_sensing rfl ⟨none_lawful, none_lawful, reportLaw_reportOf _ _⟩ ⟨fun c hc => ?_, rfl⟩
      cases hc
    · have hvalid : s.map.valid = true := by
        have hnot := mt (sensesArray_iff s).mpr hs
        simpa using (not_or.mp hnot).2
      rw [startCheck_derives s hfound (by simpa using hs)]
      split
      · exact hends _ _ _ _ rfl (.inl hvalid)
      · exact hends _ _ _ _ hpassed (.inl hvalid)
  · rw [startCheck_of_findings s hfound]
    refine hends _ _ _ _ rfl ((map_of_not_sensing h (by rw [he]; rfl)).imp_right fun hm => ⟨hm.1, rfl⟩)

theorem stopFrames_checkKept (r : Run) (cause : BreakCause) (e : Engine) : checkKept s (s.stopFrames p r cause e) := by
  rw [checkKept, stopFrames_appendsOnly s p cause r e]
  exact ⟨rfl, rfl⟩

theorem checkLaw_stopFrames {r : Run} (cause : BreakCause) {e : Engine} (h : s.checkLaw) (he : s.engine = .scanning r)
    (hsens : sensing e = false) : (s.stopFrames p r cause e).checkLaw := by
  refine checkLaw_engineMoves h (stopFrames_checkKept s p r cause e) (by rw [he]; rfl) ?_ fun _ => by rw [he]; rfl
  rw [stopFrames_engine]
  exact hsens

theorem checkLaw_holdEffect (h : s.checkLaw) : (s.holdEffect p).checkLaw := by
  unfold State.holdEffect
  dsimp only
  split
  · exact h
  · exact checkLaw_of_not_sensing rfl ⟨none_lawful, none_lawful, (listsLaw_of_checkLaw h).2.2⟩ (.inr ⟨rfl, rfl⟩)
  · rename_i he
    exact checkLaw_engineMoves h ⟨rfl, rfl⟩ (by rw [he]; rfl) rfl fun hp => by cases hp
  · rename_i r he
    exact checkLaw_stopFrames { s with hold := s.hold.insert p } p .halted h he rfl

theorem checkLaw_releaseEffect (h : s.checkLaw) (he : s.engine = .halted) : (s.releaseEffect p).checkLaw := by
  unfold State.releaseEffect
  dsimp only
  split
  · exact checkLaw_startCheck { s with hold := s.hold.erase p } h he
  · exact h

theorem checkLaw_runEffect (h : s.checkLaw) : (s.runEffect p).checkLaw := by
  by_cases he : s.engine = .idle
  · rw [runEffect_idle s p he]
    exact checkLaw_engineMoves h ⟨rfl, rfl⟩ (by rw [he]; rfl) rfl fun _ => by rw [he]; rfl
  · rw [runEffect_joins s p he]
    exact h

theorem checkLaw_stopEffect (h : s.checkLaw) : (s.stopEffect p).checkLaw := by
  unfold State.stopEffect
  dsimp only
  split
  · rename_i r he
    split
    · exact checkLaw_stopFrames { s with run := s.run.erase p } p .stopped h he rfl
    · exact h
  all_goals exact h

theorem checkLaw_withdraw (h : s.checkLaw) : (s.withdraw p).checkLaw := by
  obtain hw | ⟨-, hw⟩ | ⟨-, he, hw⟩ | ⟨r, he, -, hw⟩ := withdraw_byEngine s p <;> rw [hw]
  · exact h
  · exact h
  · exact checkLaw_startCheck { s with hold := s.hold.erase p, run := s.run.erase p } h he
  · exact checkLaw_stopFrames { s with hold := s.hold.erase p, run := s.run.erase p } p .stopped h he rfl

theorem checkLaw_storeItem (i : Item) (v : Nat) (h : s.checkLaw) (he : s.engine = .halted) : (s.storeItem i v).checkLaw := by
  obtain ⟨-, -, hr⟩ := listsLaw_of_checkLaw h
  unfold State.storeItem
  dsimp only
  split
  · exact checkLaw_congr (by simp [State.geometryFlush, State.forPorts, State.clampThresholds])
      (by simp [State.geometryFlush, State.forPorts, State.clampThresholds])
      (by simp [State.geometryFlush, State.forPorts, State.clampThresholds]) h
  · split
    · exact checkLaw_of_not_sensing (by rw [he]; rfl) ⟨none_lawful, none_lawful, hr⟩ (.inr ⟨rfl, by rw [he]; rfl⟩)
    · exact h

/-! ## The events of a frame -/

theorem checkKept_of_aside {s t : State} (h : aside s t) : checkKept s t := by
  unfold aside at h
  rw [h]
  exact ⟨rfl, rfl⟩

theorem checkKept_slotWork {s t : State} {i : SlotId} (h : slotWork s t i) : checkKept s t := by
  obtain ⟨u, x, hu, -, rfl⟩ := h
  have hslot : checkKept u (u.setSlot i x) := ⟨by simp, by simp⟩
  obtain hu | ⟨time, body, hu⟩ := hu
  · exact checkKept_trans (checkKept_of_aside hu) hslot
  · have happend : checkKept s (s.append time body) := ⟨s.append_map time body, s.append_report time body⟩
    exact checkKept_trans (checkKept_trans happend (checkKept_of_aside hu)) hslot

theorem workedBy_checkKept {s u : State} {r : Run} (h : workedBy s r u) : checkKept s u := by
  obtain h | ⟨got, rfl⟩ | ⟨sw, kept, -, -, rfl⟩ := h
  · exact checkKept_of_aside h
  · exact checkKept_trans (checkKept_trans (checkKept_slotWork (solveSlot_slotWork s .s0 r.start got))
      (checkKept_of_aside (aside_takeTogether _ []))) (checkKept_slotWork (solveSlot_slotWork _ .s1 r.start got))
  · rw [slotsOnly_evaluateSweep s kept]
    exact ⟨rfl, rfl⟩

theorem checkLaw_frameEvent {s t : State} (h : frameEvent s t) (hs : s.checkLaw) : t.checkLaw := by
  obtain h | ⟨r, r', u, he, hu, -, rfl⟩ := h
  · exact checkLaw_of_aside h hs
  · exact checkLaw_engineMoves hs (t := u.setRun r') (checkKept_trans (workedBy_checkKept hu) ⟨rfl, rfl⟩) (by rw [he]; rfl) rfl
      fun _ => by rw [he]; rfl

/-! ## Every move, every command, every step -/

theorem checkLaw_move {s t : State} (h : EngineMove s t) (hs : s.engineLaw = true) (hl : s.checkLaw) : t.checkLaw := by
  cases h with
  | none => exact hl
  | hold p => exact checkLaw_holdEffect s p hl
  | release p hh => exact checkLaw_releaseEffect s p hl (halted_of_held s p hs hh)
  | run p => exact checkLaw_runEffect s p hl
  | stop p => exact checkLaw_stopEffect s p hl
  | withdraw p => exact checkLaw_withdraw s p hl
  | store i v w he _ => exact checkLaw_storeItem s i w hl he
  | coilSensing level => exact checkLaw_coilSensingEnd s level hl
  | frame h => exact checkLaw_frameEvent h hl

theorem checkLaw_reset (tile1 tile0 cs0 cs1 quiet : Bool) : (State.resetWith tile1 tile0 cs0 cs1 quiet).checkLaw :=
  checkLaw_of_not_sensing rfl ⟨none_lawful, none_lawful, Nat.zero_le 16, fun h => by cases h⟩ (.inr ⟨rfl, rfl⟩)

theorem checkLaw_tick (h : s.checkLaw) : s.tick.checkLaw := by
  have hkept : checkKept s s.tick := ⟨rfl, rfl⟩
  have hengine : s.tick.engine = s.engine.tick := rfl
  cases he : s.engine with
  | checking pass =>
    have hp : (Engine.checking pass).passLaw s.map := he ▸ h.2.2.1
    exact checkLaw_of_sensing (pass := { pass with left := pass.left - 1 }) (by rw [hengine, he]; rfl)
      (show listsLaw s.map s.report from listsLaw_of_checkLaw h) hp
  | _ => exact checkLaw_engineMoves h hkept (by rw [he]; rfl) (by rw [hengine, he]; rfl) (by rw [hengine, he]; exact id)

theorem exec_keepsCheckLaw (j : Instr) (h : exec j s = .next t) (hs : s.engineLaw = true) (hl : s.checkLaw) : t.checkLaw := by
  by_cases hreset : ∃ a b c d e, j = .fullReset a b c d e
  · obtain ⟨a, b, c, d, e, rfl⟩ := hreset
    cases h
    exact checkLaw_reset a b c d e
  · by_cases htick : j = .timestampCounterTick
    · subst htick
      cases h
      exact checkLaw_tick s hl
    · obtain ⟨u, v, hu, hm, hv⟩ := exec_moves s t j h (fun a b c d e he => hreset ⟨a, b, c, d, e, he⟩) htick
      exact checkLaw_of_aside hv (checkLaw_move hm (engineLaw_of_aside hu hs) (checkLaw_of_aside hu hl))

/-- Settles O59: a command keeps the law of the curves in every state, and is a move of the engine, which keeps the law of the
map and the report, between changes beside it. -/
theorem curveAndCheckLawsKept : Obligations.CurveAndCheckLawsKept := by
  refine ⟨fun s t hl h => ?_, fun s t hs hl h => ?_⟩
  · obtain rfl | ⟨j, rest, h⟩ := step_cases s t h
    · exact hl
    · exact exec_keepsCurveLaw _ t j h hl
  · obtain rfl | ⟨j, rest, h⟩ := step_cases s t h
    · exact hl
    · exact exec_keepsCheckLaw _ t j h hs hl

end Sys2Proof.ScanEngine
end

section
/-!
PROOFS. HOLD and RELEASE (R34, R35, R39): their answers, the stop of frames and the start of the check (O20, O23).
-/

namespace Sys2Proof.ScanEngine

open Sys2Proof.Machine Sys2Proof.KindsAndCurves

variable (s : State) (p : PortId)

theorem exec_hold (hr : s.receiving p = true) :
    exec (.hold p) s = .next ((s.holdEffect p).answered p ((s.holdEffect p).engineReply .ok) .none) :=
  congrArg Host.Outcome.next (State.onRequest_receiving s p _ hr)

theorem holdEffect_scanning {r : Run} (he : s.engine = .scanning r) :
    s.holdEffect p = ({ s with hold := s.hold.insert p } : State).stopFrames p r .halted .halted := by
  simp only [State.holdEffect, he]

/-- Settles O20, by the state of the engine. -/
theorem holdTakesEffect : Obligations.HoldTakesEffect := by
  intro s p hr joined reply
  rw [exec_hold s p hr]
  refine ⟨fun he => ?_, fun he => ?_, fun pass he => ?_, fun r he => ?_⟩
  · have heffect : s.holdEffect p = joined := by
      simp only [State.holdEffect, he, joined]
    rw [heffect]
    rfl
  · rw [State.holdEffect, he]
    rfl
  · rw [State.holdEffect, he]
    rfl
  · have hreply : (s.holdEffect p).engineReply .ok = reply := by
      rw [holdEffect_scanning s p he, State.engineReply, stopFrames_appendsOnly _ p .halted r .halted]
      rfl
    rw [hreply, holdEffect_scanning s p he]
    exact ⟨_, rfl, stopFrames_stopped _ p r .halted .halted⟩

theorem exec_release (hr : s.receiving p = true) :
    exec (.release p) s = .next ((s.answerRelease p).state.answered p (s.answerRelease p).reply (s.answerRelease p).xfer) :=
  congrArg Host.Outcome.next (State.onRequest_receiving s p _ hr)

theorem startCheck_sets : s.startCheck.hold = s.hold ∧ s.startCheck.run = s.run := by
  obtain ⟨-, -, -, -, -, h⟩ := startCheck_checkStarted s
  rw [h]
  exact ⟨rfl, rfl⟩

/-- Settles O23, by whether the port holds and whether it held last. -/
theorem releaseStartsCheck : Obligations.ReleaseStartsCheck := by
  intro s p hr left reply
  have hcode (t : State) (rc : ResultCode) (hrun : t.run = s.run) : t.engineReply rc = reply t.engine rc t.hold := by
    rw [State.engineReply, hrun]
    refine congrArg (fun code => Reply.mk rc [.byte code, .u8 t.hold.toByte, .u8 s.run.toByte] []) ?_
    cases t.engine <;> rfl
  rw [exec_release s p hr]
  unfold State.answerRelease
  refine ⟨fun hh => ?_, fun hh hmore => ?_, fun hh hlast => ?_⟩
  · simp only [hh, Bool.false_eq_true, if_false, hcode s .notHolding rfl]
  · have heffect : s.releaseEffect p = left := by
      simp only [State.releaseEffect]
      rw [if_neg (by rw [hmore]; exact Bool.false_ne_true)]
    rw [if_pos hh]
    simp only [heffect, hcode left .ok rfl]
    rfl
  · have heffect : s.releaseEffect p = left.startCheck := by
      simp only [State.releaseEffect]
      rw [if_pos hlast]
    obtain ⟨hhold, hrun⟩ := startCheck_sets left
    refine ⟨left.startCheck, ?_, startCheck_checkStarted left⟩
    rw [if_pos hh]
    simp only [heffect, hcode left.startCheck .ok hrun, hhold]

end Sys2Proof.ScanEngine
end

section
/-!
PROOFS. Full reset: the state it leaves, and that it has every law of the part (O56, O57).
-/

namespace Sys2Proof.FullReset

open Sys2Proof.Machine

/-- No condition is enabled after a reset, so no line is asserted (R152, R161). -/
theorem meets_none (a : CondSet) : a.meets {} = false := by
  simp [CondSet.meets, Latched.meets]

/-- Nothing is pending after a reset: an empty ring is neither READY nor NEAR_FULL (R123, R124, R160). -/
theorem pendingSet_reset (tile1 tile0 cs0 cs1 quiet : Bool) (pending : List Instr) (choices : Nat) (p : PortId) :
    ({ State.resetWith tile1 tile0 cs0 cs1 quiet with pending := pending, choices := choices } : State).pendingSet p = {} := by
  cases p <;> simp [State.pendingSet, State.readyHolds, State.nearFullHolds, State.lag, State.capacity, State.resetWith,
    Port.reset, Cursor.resetAt, seqDist, Items.reset, bankSlots]

/-- Settles O56: the state is State.resetWith with the queue and the count of choices kept, and its blocks are read off. -/
theorem fullResetState : Obligations.FullResetState := by
  intro tile1 tile0 cs0 cs1 quiet s k0 other cursor port
  refine ⟨_, rfl, rfl, rfl, rfl, rfl, rfl, rfl, fun c => ?_, rfl, rfl, rfl, rfl, rfl, rfl, rfl, rfl, rfl, rfl, fun k => ?_,
    fun c => ?_, ?_, rfl, fun p => ?_⟩
  · fin_cases c <;> rfl
  · fin_cases k <;> rfl
  · fin_cases c <;> rfl
  · cases tile1 <;> cases tile0 <;> rfl
  · refine ⟨?_, by cases p <;> exact meets_none _⟩
    rw [pendingSet_reset]
    decide

/-- Settles O57: each law has its own lemma about the reset state. -/
theorem resetMeetsLaws : Obligations.ResetMeetsLaws := by
  intro tile1 tile0 cs0 cs1 quiet s
  exact ⟨ScanEngine.engineLaw_of_halted s rfl, ScanEngine.slotLaw_of_free rfl rfl (show 1 ≤ 3 by omega) rfl,
    ScanEngine.checkLaw_reset tile1 tile0 cs0 cs1 quiet, KindsAndCurves.curveLaw_reset tile1 tile0 cs0 cs1 quiet,
    StrokeRing.historyLaw_resetWith tile1 tile0 cs0 cs1 quiet⟩

end Sys2Proof.FullReset
end

section
/-!
PROOFS. The end of a coil sensing (R8, R10 to R12, R43, R44): the classification of the coil, the coil sensed next, and the end of
the pass after the last Y coil (O24, O25).
-/

namespace Sys2Proof.ScanEngine

open Sys2Proof.Machine Sys2Proof.KindsAndCurves

variable (s : State) (pass : SensePass) (level : BitVec 10)

/-! ## The classification of a coil -/

/-- The levels of a defective coil (R10). -/
abbrev defectiveLevel (n : Nat) : Prop := n ≤ 63 ∨ 961 ≤ n

/-- Why a coil of a defective level is defective (R10). -/
def reasonOf (n : Nat) : DefectReason := if n ≤ 63 then .openLoop else .shortLoop

theorem classify_sound {n : Nat} (h : ¬ defectiveLevel n) : classify n = none := by
  rw [classify, if_neg (by omega), if_pos (by omega)]

theorem classify_defective {n : Nat} (h : defectiveLevel n) : classify n = some (reasonOf n) := by
  unfold classify reasonOf
  by_cases hopen : n ≤ 63
  · rw [if_pos hopen, if_pos hopen]
  · rw [if_neg hopen, if_neg hopen, if_neg (by omega)]

/-- Whether a defective coil is the first of its axis beyond the limit (R11). -/
def goesAbove (s : State) (pass : SensePass) : Bool :=
  decide (s.items.maxDefects < (s.map.axis pass.axis).listed.length + (s.map.axis pass.axis).unlisted + 1) && !pass.tooMany

/-- The findings of a defective coil (R11). -/
def coilFindings (s : State) (pass : SensePass) (n : Nat) : List Finding :=
  defectFindings pass.axis { coil := pass.coil, reason := reasonOf n } pass.prevBad (goesAbove s pass)

theorem total_add (d : AxisDefects) (c : Defect) : (d.add c).total = d.listed.length + d.unlisted + 1 := by
  unfold AxisDefects.add AxisDefects.total
  split
  · simp only [List.length_append, List.length_singleton]
    omega
  · simp only
    omega

theorem makesTooMany_eq (reason : DefectReason) :
    makesTooMany ((s.map.axis pass.axis).add { coil := pass.coil, reason := reason }).total s.items.maxDefects pass.tooMany
      = goesAbove s pass := by
  rw [total_add]
  rfl

/-- A defective coil makes a FAIL finding by its defective neighbour or by the limit; that it is defective is a NOTE (R11). -/
theorem any_isFail_defectFindings (a : Axis) (c : Defect) (prevBad tooMany : Bool) :
    (defectFindings a c prevBad tooMany).any Finding.isFail = (prevBad || tooMany) := by
  obtain ⟨coil, reason⟩ := c
  cases reason <;> cases prevBad <;> cases tooMany <;> rfl

theorem classifyCoil_sound (h : ¬ defectiveLevel level.toNat) :
    s.classifyCoil pass level.toNat = (s, { pass with prevBad := false }) := by
  simp only [State.classifyCoil, classify_sound h]

theorem classifyCoil_defective (h : defectiveLevel level.toNat) (hr : s.report.findings.length ≤ 16) :
    s.classifyCoil pass level.toNat
      = ({ s with
            map := s.map.setAxis pass.axis
              ((s.map.axis pass.axis).add { coil := pass.coil, reason := reasonOf level.toNat })
            report := { s.report with
              findings := (s.report.findings ++ coilFindings s pass level.toNat).take 16
              truncated := s.report.truncated
                || decide (16 < s.report.findings.length + (coilFindings s pass level.toNat).length) } },
         { pass with
            prevBad := true, tooMany := pass.tooMany || goesAbove s pass
            failed := pass.failed || (pass.prevBad || goesAbove s pass) }) := by
  simp only [State.classifyCoil, classify_defective h, makesTooMany_eq, any_isFail_defectFindings,
    Report.addAll_take _ _ hr]
  rfl

/-! ## The coil sensed next -/

/-- The coil after `pass` is coil `n` of axis `a`: the next of the axis, or Y coil 0 after the last X coil (R10). -/
abbrev followedBy (s : State) (pass : SensePass) (a : Axis) (n : Nat) : Prop :=
  if pass.coil + 1 < s.items.coils pass.axis then a = pass.axis ∧ n = pass.coil + 1 else pass.axis = .x ∧ a = .y ∧ n = 0

theorem nextCoil_of_followedBy {a : Axis} {n : Nat} (h : followedBy s pass a n) :
    pass.nextCoil s.items = some (a, n) ∧ decide (a = pass.axis) = decide (pass.coil + 1 < s.items.coils pass.axis) := by
  unfold followedBy at h
  unfold SensePass.nextCoil
  split at h
  · rename_i hstays
    obtain ⟨rfl, rfl⟩ := h
    rw [if_pos hstays]
    simp [hstays]
  · rename_i hlast
    obtain ⟨haxis, rfl, rfl⟩ := h
    rw [if_neg hlast, haxis]
    simp [haxis ▸ hlast]

/-- The end of the sensing of a coil that is not the last one (R10). -/
theorem coilSensingEnd_next {a : Axis} {n : Nat} (he : s.engine = .checking pass) (hleft : pass.left = 0)
    (hn : followedBy s pass a n) :
    exec (.coilSensingEnd level) s
      = .next { (s.classifyCoil pass level.toNat).1 with
          engine := .checking { (s.classifyCoil pass level.toNat).2 with
            axis := a, coil := n, left := 50
            prevBad := decide (pass.coil + 1 < s.items.coils pass.axis) && (s.classifyCoil pass level.toNat).2.prevBad
            tooMany := decide (pass.coil + 1 < s.items.coils pass.axis) && (s.classifyCoil pass level.toNat).2.tooMany } } := by
  obtain ⟨hnext, hsame⟩ := nextCoil_of_followedBy s pass hn
  show Host.Outcome.next (s.coilSensingEnd level.toNat) = _
  simp only [State.coilSensingEnd, he, hleft, if_true, hnext, hsame, senseTime]

/-- The end of the sensing of the last Y coil (R12). -/
theorem coilSensingEnd_last (he : s.engine = .checking pass) (hleft : pass.left = 0) (haxis : pass.axis = .y)
    (hlast : s.items.yCoils ≤ pass.coil + 1) :
    exec (.coilSensingEnd level) s
      = .next (({ (s.classifyCoil pass level.toNat).1 with
          map := { (s.classifyCoil pass level.toNat).1.map with valid := true } } : State).completeCheck
            (s.classifyCoil pass level.toNat).2.failed) := by
  have hnext : pass.nextCoil s.items = none := by
    rw [SensePass.nextCoil, haxis, if_neg (show ¬ pass.coil + 1 < s.items.coils .y from Nat.not_lt.mpr hlast)]
  show Host.Outcome.next (s.coilSensingEnd level.toNat) = _
  simp only [State.coilSensingEnd, he, hleft, if_true, hnext]

/-! ## The statements' spelling -/

theorem decide_above : decide (s.items.maxDefects < (s.map.axis pass.axis).listed.length + (s.map.axis pass.axis).unlisted + 1
    ∧ pass.tooMany = false) = goesAbove s pass := by
  rw [goesAbove, Bool.decide_and, Bool.decide_eq_false]

theorem coilFindings_eq (n : Nat) : coilFindings s pass n
    = [⟨if n ≤ 63 then .coilOpen else .coilShort, some pass.axis, some pass.coil, none⟩]
      ++ (if pass.prevBad = true then [⟨.adjacentDefects, some pass.axis, some (pass.coil - 1), some pass.coil⟩] else [])
      ++ (if s.items.maxDefects < (s.map.axis pass.axis).listed.length + (s.map.axis pass.axis).unlisted + 1
            ∧ pass.tooMany = false then
          [⟨.tooManyDefects, some pass.axis, some pass.coil, none⟩] else []) := by
  have hkind : (reasonOf n).finding = if n ≤ 63 then .coilOpen else .coilShort := by
    unfold reasonOf
    split <;> rfl
  have habove := decide_above s pass
  rw [coilFindings, defectFindings, hkind, ← habove]
  simp only [decide_eq_true_eq]

/-- Settles O24: the coil is sound or defective, and the pass goes on with the coil that follows. -/
theorem coilClassified : Obligations.CoilClassified := by
  intro s pass level a n he hleft hr hn stays defective
  rw [coilSensingEnd_next s pass level he hleft hn]
  refine ⟨fun hsound => ?_, fun hdef => ?_⟩
  · rw [classifyCoil_sound s pass level hsound]
    simp only [Bool.and_false]
    rfl
  · intro reason before found above made
    rw [classifyCoil_defective s pass level hdef hr, coilFindings_eq, ← decide_above, Bool.and_true, ← Bool.or_assoc]
    rfl

/-! ## The end of the check (R43) -/

/-- A check that completes goes to HALTED with CHECK raised, or to IDLE or a first frame by the run set; beside the engine, the
outcome and the conditions it changes nothing. -/
structure Completed (u t : State) (failed : Bool) : Prop where
  map : t.map = u.map
  report : t.report = { u.report with outcome := if failed then .failed else .passed }
  halts : failed = true → t.engine = .halted
  idles : failed = false → u.run.isEmpty = true → t.engine = .idle
  scans : failed = false → u.run.isEmpty = false →
    ∃ r f, t.engine = .scanning r ∧ r.start = u.counter ∧ r.sweep = none ∧ r.frame = some f
  port : ∀ q, t.port q = { u.port q with
    latched := { (u.port q).latched with
      engine := true, check := (u.port q).latched.check || decide (t.engine = .halted) } }
  frame : t = { u with engine := t.engine, report := t.report, port0 := t.port0, port1 := t.port1 }

theorem completeCheck_completed (failed : Bool) : Completed s (s.completeCheck failed) failed := by
  have hport (x : Port) : { x with latched := x.latched.raise .engine }
      = { x with latched := { x.latched with engine := true, check := x.latched.check || false } } := by
    rw [Bool.or_false]
    rfl
  obtain ⟨rfl, h⟩ | ⟨rfl, hr, h⟩ | ⟨rfl, hr, h⟩ := s.completeCheck_cases failed <;> rw [h]
  · refine ⟨rfl, rfl, fun _ => rfl, nofun, nofun, fun q => ?_, rfl⟩
    cases q <;> simp [State.toEngine, raiseBoth_eq, Latched.raise]
  · refine ⟨rfl, rfl, nofun, fun _ _ => rfl, fun _ h => absurd (hr.symm.trans h) nofun, fun q => ?_, rfl⟩
    cases q <;> exact hport _
  · refine ⟨rfl, rfl, nofun, fun _ h => absurd (hr.symm.trans h) nofun,
      fun _ _ => ⟨_, _, rfl, rfl, rfl, rfl⟩, fun q => ?_, rfl⟩
    cases q <;> exact hport _

/-- What the classification of a Y coil leaves of the lists and the report, and whether the pass has failed (R8, R11, R43). -/
theorem classifyCoil_y (haxis : pass.axis = .y) (hr : s.report.findings.length ≤ 16) :
    let after := s.classifyCoil pass level.toNat
    after.1.map.x = s.map.x
    ∧ after.1 = { s with map := after.1.map, report := after.1.report }
    ∧ (¬ defectiveLevel level.toNat → after.1 = s ∧ after.2.failed = pass.failed)
    ∧ (defectiveLevel level.toNat →
        after.1.map.y = s.map.y.add { coil := pass.coil, reason := reasonOf level.toNat }
        ∧ after.1.report.findings = (s.report.findings ++ coilFindings s pass level.toNat).take 16
        ∧ after.1.report.truncated = (s.report.truncated
            || decide (16 < s.report.findings.length + (coilFindings s pass level.toNat).length))
        ∧ after.2.failed = (pass.failed || (pass.prevBad || goesAbove s pass))) := by
  by_cases hd : defectiveLevel level.toNat
  · rw [classifyCoil_defective s pass level hd hr, haxis]
    exact ⟨rfl, rfl, fun h => absurd hd h, fun _ => ⟨rfl, rfl, rfl, rfl⟩⟩
  · rw [classifyCoil_sound s pass level hd]
    exact ⟨rfl, rfl, fun _ => ⟨rfl, rfl⟩, fun h => absurd h hd⟩

/-- Settles O25: the coil is classified, the map becomes VALID, and the check completes by whether a finding of it was FAIL. -/
theorem sensingPassCompletes : Obligations.SensingPassCompletes := by
  intro s pass level he hleft haxis hlast hr defective above failed made
  obtain ⟨hx, hframe, hsound, hdefective⟩ := classifyCoil_y s pass level haxis hr
  generalize hafter : s.classifyCoil pass level.toNat = after at hx hframe hsound hdefective
  let u : State := { after.1 with map := { after.1.map with valid := true } }
  have hu : u = { s with map := u.map, report := u.report } := by
    show ({ after.1 with map := { after.1.map with valid := true } } : State) = _
    rw [hframe]
  have habove : goesAbove s pass = true ↔ above := by
    rw [← decide_above, decide_eq_true_eq, haxis]
    exact Iff.rfl
  have hfailed : after.2.failed = true ↔ failed := by
    by_cases hd : defective
    · rw [(hdefective hd).2.2.2, Bool.or_eq_true, Bool.or_eq_true, habove]
      exact or_congr_right (by simp [hd])
    · rw [(hsound hd).2]
      exact (or_iff_left fun h => hd h.1).symm
  have hmade : coilFindings s pass level.toNat = made := by
    rw [coilFindings_eq, haxis]
    rfl
  have hc := completeCheck_completed u after.2.failed
  have hrun : u.run = s.run := by rw [hu]
  have hcounter : u.counter = s.counter := by rw [hu]
  have hports (q : PortId) : u.port q = s.port q := by rw [hu]; cases q <;> rfl
  refine ⟨_, hafter ▸ coilSensingEnd_last s pass level he hleft haxis hlast, ?_, ?_, ?_, ?_, ?_, ?_, ?_, ?_⟩
  · rw [hc.map]
  · rw [hc.map]
    exact hx
  · intro hd
    rw [hc.map, hc.report]
    show after.1.map.y = _ ∧ after.1.report.findings = _ ∧ after.1.report.truncated = _
    rw [(hsound hd).1]
    exact ⟨rfl, rfl, rfl⟩
  · intro hd
    obtain ⟨hy, hfindings, htruncated, -⟩ := hdefective hd
    rw [hc.map, hc.report, ← hmade]
    exact ⟨hy, hfindings, htruncated⟩
  · intro hf
    refine ⟨hc.halts (hfailed.mpr hf), ?_⟩
    rw [hc.report]
    exact if_pos (hfailed.mpr hf)
  · intro hf
    have hpassed := Bool.eq_false_iff.mpr (mt hfailed.mp hf)
    rw [← hrun, ← hcounter]
    refine ⟨?_, hc.idles hpassed, hc.scans hpassed⟩
    rw [hc.report]
    exact if_neg (mt hfailed.mp hf)
  · intro q
    rw [← hports]
    exact hc.port q
  · rw [hc.frame, hu]

end Sys2Proof.ScanEngine
end

section
/-!
PROOFS. The end of a reading (R3, R50 to R54): the reading kept, the next one due, the solve stage and the end of the sweep (O42).
-/

namespace Sys2Proof.ScanEngine

open Sys2Proof.Machine Sys2Proof.KindsAndCurves

variable (s : State) (r : Run) (f : Frame) (amplitude : BitVec 16) (phase : BitVec 12)

theorem exec_readingEnd_tracking {cur : TrackRead} {rest : List TrackRead} {got : List (TrackRead × Reading)}
    (he : s.engine = .scanning r) (hf : r.frame = some f) (hg : f.stage = .tracking cur rest got (.reading 0)) :
    exec (.readingEnd amplitude phase) s = .next (s.trackingEnd r f cur rest got (readingOf amplitude phase)) := by
  show Host.Outcome.next (s.readingEnd (readingOf amplitude phase)) = _
  simp only [State.readingEnd, he, hf, hg]

theorem exec_readingEnd_searching {budget : Nat} {sw : Sweep} (he : s.engine = .scanning r) (hf : r.frame = some f)
    (hg : f.stage = .searching budget (.reading 0)) (hs : r.sweep = some sw) :
    exec (.readingEnd amplitude phase) s = .next (s.searchEnd r f budget sw (readingOf amplitude phase)) := by
  show Host.Outcome.next (s.readingEnd (readingOf amplitude phase)) = _
  simp only [State.readingEnd, he, hf, hg, hs]

/-- The cursor after a search reading: X coils, then Y coils, then the next channel (R52). -/
theorem nextCursor_eq (sw : Sweep) (items : Items) :
    sw.nextCursor items
      = if sw.cursor.coil + 1 < (match sw.cursor.axis with | .x => items.xCoils | .y => items.yCoils) then
          some { sw.cursor with coil := sw.cursor.coil + 1 }
        else if sw.cursor.axis = .x then some { index := sw.cursor.index, axis := .y, coil := 0 }
        else if sw.cursor.index + 1 < sw.list.length then some { index := sw.cursor.index + 1, axis := .x, coil := 0 }
        else none := by
  have hcoils : items.coils sw.cursor.axis = match sw.cursor.axis with | .x => items.xCoils | .y => items.yCoils := rfl
  rw [Sweep.nextCursor, hcoils]
  refine if_congr Iff.rfl rfl ?_
  cases ha : sw.cursor.axis <;> simp

/-- A sweep with a reading of the coil at its cursor (R52). -/
def keptReading (sw : Sweep) (c : Chan) (reading : Reading) : Sweep :=
  { sw with got := sw.got ++ [{ chan := c, axis := sw.cursor.axis, coil := sw.cursor.coil, reading := reading }] }

theorem searchEnd_eq (budget : Nat) (sw : Sweep) (reading : Reading) {c : Chan} (hc : sw.list[sw.cursor.index]? = some c) :
    s.searchEnd r f budget sw reading
      = match (keptReading sw c reading).nextCursor s.items with
        | none => (s.evaluateSweep (keptReading sw c reading)).setRun { r with frame := none, sweep := none }
        | some at_ =>
          if budget ≤ 1 then s.setRun { r with frame := none, sweep := some { keptReading sw c reading with cursor := at_ } }
          else s.setRun { r with
            frame := some { f with stage := .searching (budget - 1) (s.duePath f.gating) }
            sweep := some { keptReading sw c reading with cursor := at_ } } := by
  simp only [State.searchEnd, hc]
  rfl

/-- Settles O42, by the stage of the frame. -/
theorem readingEndTakesReading : Obligations.ReadingEndTakesReading := by
  intro s r f amplitude phase he hf reading path withRun
  have hpath : s.duePath f.gating = path := duePath_eq s f.gating
  refine ⟨fun cur rest got hg => ?_, fun budget sw c hg hs hc => ?_⟩
  · rw [exec_readingEnd_tracking s r f amplitude phase he hf hg]
    refine ⟨fun next later hrest => ?_, fun hrest => ⟨_, State.takeTogether_together _ [], ?_⟩⟩
    · subst hrest
      rw [State.trackingEnd, hpath]
      rfl
    · subst hrest
      rfl
  · intro n got next
    have hnext : (keptReading sw c (readingOf amplitude phase)).nextCursor s.items = next := nextCursor_eq _ _
    rw [exec_readingEnd_searching s r f amplitude phase he hf hg hs, searchEnd_eq s r f budget sw _ hc, hnext]
    refine ⟨fun at_ hn => ⟨fun hb => ?_, fun hb => ?_⟩, fun hn => ?_⟩
    · simp only [hn, if_neg (Nat.not_le.mpr hb), hpath]
      rfl
    · simp only [hn, if_pos hb]
      rfl
    · simp only [hn]
      rfl

end Sys2Proof.ScanEngine
end

section
/-!
PROOFS. The substitution of listed coils (R15, R16) (O48).
-/

namespace Sys2Proof.PositionSolver

open Sys2Proof.Machine

/-- A place of a set after substitution, from the readings as read. -/
theorem getElem?_substitute (first : Nat) (listed : List Nat) (rs : List Reading) (j : Nat) :
    (substitute first listed rs)[j]?
      = rs[j]?.map fun own => if listed.contains (first + j) then substituteAt rs j own else own := by
  simp [substitute, List.getElem?_zipIdx, Function.comp_def]

section
variable {rs : List Reading} {j : Nat} {a b : Reading} (own : Reading)

theorem substituteAt_both (hj : 0 < j) (ha : rs[j - 1]? = some a) (hb : rs[j + 1]? = some b) :
    substituteAt rs j own = { amp := (a.amp + b.amp) / 2, phase := if a.amp < b.amp then b.phase else a.phase } := by
  simp only [substituteAt, if_neg (Nat.pos_iff_ne_zero.mp hj), ha, hb]

theorem substituteAt_lower (hj : 0 < j) (ha : rs[j - 1]? = some a) (hb : rs[j + 1]? = none) : substituteAt rs j own = a := by
  simp only [substituteAt, if_neg (Nat.pos_iff_ne_zero.mp hj), ha, hb]

theorem substituteAt_upper (hb : rs[1]? = some b) : substituteAt rs 0 own = b := by
  simp only [substituteAt, if_true, Nat.zero_add, hb]

end

/-- Settles O48, by whether the coil is listed and which of its neighbours are present. -/
theorem substitutionFromNeighbours : Obligations.SubstitutionFromNeighbours := by
  intro first listed rs j own hown out
  have hout : out j = some (if listed.contains (first + j) then substituteAt rs j own else own) := by
    rw [show out j = _ from getElem?_substitute first listed rs j, hown]
    rfl
  refine ⟨length_substitute first listed rs, fun hnot => ?_, fun hlisted => ?_⟩
  · rw [hout, if_neg (by simpa using hnot)]
  · rw [hout, if_pos (by simpa using hlisted)]
    refine ⟨fun a b hj ha hb => ⟨?_, by omega⟩, fun a hj ha hb => ?_, fun b hj hb => ?_⟩
    · rw [substituteAt_both own hj ha hb]
    · rw [substituteAt_lower own hj ha hb]
    · rw [hj, substituteAt_upper own hb]

end Sys2Proof.PositionSolver
end

section
/-!
PROOFS. Table 9.8.3: its rows are those of the items, an id names the item of its row, and a value stored is read back in that row
alone (R1, R5, R6, R9, R17, R46 to R48, R58, R99) (O10, O28).
-/

namespace Sys2Proof.KindsAndCurves

open Sys2Proof.StrokeRing (items_get_set)
open Sys2Proof.ScanEngine (answerConfigWrite_accepted)

open Sys2Proof.Machine

variable (s : State) (p : PortId) (x : Items) (i j : Item)

/-! ## The items in the order of the table -/

/-- The place of a field of a tool kind (R17). -/
def fieldPlace : KindField → Nat
  | .enabled => 0
  | .tip => 1
  | .eraser => 2
  | .collar => 3
  | .spacing => 4
  | .curve => 5
  | .phaseZero => 6
  | .phaseSpan => 7
  | .tipCorr => 8
  | .collarMin => 9

/-- The id of an item. -/
def itemId : Item → Nat
  | .xCoils => 0x01
  | .yCoils => 0x02
  | .pitch => 0x03
  | .dwell => 0x04
  | .checkMode => 0x05
  | .maxDefects => 0x06
  | .chanM c => 0x10 + c.val
  | .chanN c => 0x18 + c.val
  | .framePeriod => 0x20
  | .quietGating => 0x21
  | .quietTimeout => 0x22
  | .enterLevel => 0x28
  | .leaveLevel => 0x29
  | .leaveCount => 0x2A
  | .contactOn => 0x2B
  | .contactOff => 0x2C
  | .ringBase => 0x30
  | .ringBanks => 0x31
  | .kind k f => 0x40 + 16 * k.val + fieldPlace f

/-- The fields of a tool kind in the order of their places. -/
def kindFields : List KindField :=
  [.enabled, .tip, .eraser, .collar, .spacing, .curve, .phaseZero, .phaseSpan, .tipCorr, .collarMin]

/-- The items that stand once in the table. -/
def singleItems : List Item :=
  [.xCoils, .yCoils, .pitch, .dwell, .checkMode, .maxDefects, .framePeriod, .quietGating, .quietTimeout, .enterLevel,
    .leaveLevel, .leaveCount, .contactOn, .contactOff, .ringBase, .ringBanks]

/-- The items in the order of the table's rows. -/
def tableItems : List Item :=
  singleItems ++ ((List.finRange 8).flatMap fun c => [Item.chanM c, Item.chanN c])
    ++ (List.finRange 4).flatMap fun k => kindFields.map (Item.kind k)

/-- The row of an item. -/
def itemRow (x : Items) (i : Item) : ItemRow := { id := itemId i, range := i.range, value := x.get i }

theorem mem_tableItems : i ∈ tableItems := by
  cases i with
  | kind k f => cases f <;> simp [tableItems, singleItems, kindFields]
  | _ => simp [tableItems, singleItems]

theorem toNat_eq_ite (b : Bool) : b.toNat = if b then 1 else 0 := by cases b <;> rfl

theorem table_eq : x.table = tableItems.map (itemRow x) := by
  have hkind (k : Fin 4) : (x.kinds[k]).enabled.toNat = if (x.kinds[k]).enabled then 1 else 0 := toNat_eq_ite _
  rw [tableItems, List.map_append, List.map_append, List.map_flatMap, List.map_flatMap]
  refine congrArg₂ (· ++ ·) (congrArg₂ (· ++ ·) ?_ rfl) ?_
  · simp only [singleItems, List.map_cons, List.map_nil, itemRow, Items.get, toNat_eq_ite]
    rfl
  · refine congrArg (fun f => (List.finRange 4).flatMap f) (funext fun k => ?_)
    simp only [kindFields, List.map_cons, List.map_nil, itemRow, Items.get, Kind.get, hkind]
    rfl

theorem mem_table {row : ItemRow} : row ∈ x.table ↔ ∃ i, row = itemRow x i := by
  rw [table_eq, List.mem_map]
  exact ⟨fun ⟨i, _, h⟩ => ⟨i, h.symm⟩, fun ⟨i, h⟩ => ⟨i, mem_tableItems i, h.symm⟩⟩

/-! ## The item an id names -/

theorem fieldPlace_ofPlace {n : Nat} {f : KindField} (h : KindField.ofPlace n = some f) : fieldPlace f = n := by
  unfold KindField.ofPlace at h
  split at h <;> cases h <;> rfl

theorem itemId_of_ofId {id : Byte} {i : Item} (h : Item.ofId id = some i) : itemId i = id.toNat := by
  unfold Item.ofId at h
  dsimp only at h
  split at h
  · split at h
    · obtain ⟨f, hf, rfl⟩ := Option.map_eq_some_iff.mp h
      have hplace := fieldPlace_ofPlace hf
      simp only [itemId, hplace]
      omega
    · cases h
  · split at h
    · cases h
      simp only [itemId]
      omega
    · split at h
      · cases h
        simp only [itemId]
        omega
      · split at h <;> cases h <;> exact Eq.symm ‹_›

theorem ofId_itemId : Item.ofId (BitVec.ofNat 8 (itemId i)) = some i := by
  cases i with
  | chanM c => fin_cases c <;> rfl
  | chanN c => fin_cases c <;> rfl
  | kind k f => fin_cases k <;> cases f <;> rfl
  | _ => rfl

theorem ofId_iff (id : Byte) : Item.ofId id = some i ↔ itemId i = id.toNat := by
  refine ⟨itemId_of_ofId, fun h => ?_⟩
  have hi := ofId_itemId i
  rwa [h, BitVec.ofNat_toNat, BitVec.setWidth_eq] at hi

theorem itemId_inj : itemId i = itemId j ↔ i = j := by
  refine ⟨fun h => ?_, fun h => h ▸ rfl⟩
  have hi := ofId_itemId i
  rw [h, ofId_itemId j] at hi
  exact (Option.some.inj hi).symm

theorem ofId_none (id : Byte) : Item.ofId id = none ↔ ∀ row ∈ x.table, row.id ≠ id.toNat := by
  rw [Option.eq_none_iff_forall_ne_some]
  constructor
  · rintro h row hrow hid
    obtain ⟨i, rfl⟩ := (mem_table x).mp hrow
    exact h i ((ofId_iff i id).mpr hid)
  · intro h i hi
    exact h (itemRow x i) ((mem_table x).mpr ⟨i, rfl⟩) (itemId_of_ofId hi)

/-! ## CONFIG READ (R47) -/

/-- Settles O10: the rows of the table are the items' own, and an id names the item of its row. -/
theorem configReadAnswersStored : Obligations.ConfigReadAnswersStored := by
  intro s p id hr
  have hexec : exec (.configRead p id) s = .next (s.onRequest p fun t => t.answerConfigRead id) := rfl
  refine ⟨fun row hrow hid => ?_, fun hnone => ?_, ofId_none s.items id, fun i hi => ?_⟩
  · obtain ⟨i, rfl⟩ := (mem_table s.items).mp hrow
    rw [hexec, onRequest_answered s p _ _ hr (by simp only [State.answerConfigRead, (ofId_iff i id).mpr hid]; rfl)]
    rfl
  · rw [hexec, onRequest_answered s p _ _ hr (by simp only [State.answerConfigRead, (ofId_none s.items id).mpr hnone]; rfl)]
    rfl
  · have hid := itemId_of_ofId hi
    rw [← hid]
    exact ⟨(mem_table s.items).mpr ⟨i, rfl⟩, (itemId_inj i .ringBase).symm, (itemId_inj i .ringBanks).symm⟩

/-! ## CONFIG WRITE (R46) -/

/-- The value stored for a value written, by the row of an item (R1, R46). -/
def storedValue (id : Nat) (range : ItemRange) (v : Nat) : Nat :=
  match range with
  | .codes _ => v
  | .numeric low high =>
    let c := max low (min v high)
    if id = 0x03 ∧ c % 2 = 1 then c - 1 else c

theorem accept_storedValue (v : Nat) (h : ∀ n, i.range = .codes n → v < n) :
    i.accept v = some (storedValue (itemId i) i.range v) := by
  unfold Item.accept storedValue
  cases hr : i.range with
  | codes n => simp only [if_pos (h n hr)]
  | numeric low high =>
    have hpitch : itemId i = 0x03 ↔ i = .pitch := itemId_inj i .pitch
    simp only [hpitch, clampNat, Option.some.injEq]
    by_cases hi : i = .pitch
    · simp only [hi, if_true, true_and]
      split <;> omega
    · simp only [hi, if_false, false_and]

theorem isCoilCount_iff : i.isCoilCount = true ↔ itemId i = 0x01 ∨ itemId i = 0x02 := by
  have hx : itemId i = 0x01 ↔ i = .xCoils := itemId_inj i .xCoils
  have hy : itemId i = 0x02 ↔ i = .yCoils := itemId_inj i .yCoils
  rw [hx, hy]
  cases i <;> simp [Item.isCoilCount]

theorem isGeometry_of_itemId (hbase : itemId i ≠ 0x30) (hbanks : itemId i ≠ 0x31) : i.isGeometry = false := by
  rw [Bool.eq_false_iff, Ne, isGeometry_iff]
  rintro (rfl | rfl)
  · exact hbase rfl
  · exact hbanks rfl

theorem storeItem_plain (v : Nat) (hg : i.isGeometry = false) :
    s.storeItem i v = { s with
      items := s.items.set i v
      map := if itemId i = 0x01 ∨ itemId i = 0x02 then DefectMap.invalid else s.map } := by
  unfold State.storeItem
  simp only [hg, Bool.false_eq_true, if_false, isCoilCount_iff]
  split <;> rfl

/-- A value stored stands in the row of its item alone. -/
theorem table_set {v : Nat} (hv : i.range.admits v = true) :
    (x.set i v).table = x.table.map fun r => if r.id = itemId i then { r with value := v } else r := by
  rw [table_eq, table_eq, List.map_map]
  refine List.map_congr_left fun j _ => ?_
  simp only [Function.comp_apply, itemRow, items_get_set x i j hv, itemId_inj]
  split <;> rfl

/-- Settles O28: the item of the row accepts the value, and storing it changes that row alone. -/
theorem configWriteStores : Obligations.ConfigWriteStores := by
  intro s p id value row hr he hh hrow hid hbase hbanks hcodes v
  obtain ⟨i, rfl⟩ := (mem_table s.items).mp hrow
  have hg := isGeometry_of_itemId i hbase hbanks
  have ha : i.accept value.toNat = some v := accept_storedValue i value.toNat hcodes
  have hv := Item.accept_admits i _ _ ha
  have hget : (s.items.set i v).get i = v := by rw [items_get_set s.items i i hv, if_pos rfl]
  have hclamped : s.itemClamped i value.toNat v = (v != value.toNat) := by
    rw [State.itemClamped, hg, Bool.false_and, Bool.or_false]
  have hresult : ResultCode.okUnless (v != value.toNat) = if v = value.toNat then .ok else .clamped := by
    by_cases h : v = value.toNat <;> simp [ResultCode.okUnless, h]
  have hanswer := answerConfigWrite_accepted s p id value he hh ((ofId_iff i id).mpr hid) (by rw [hg, Bool.false_and]) ha
  refine ⟨s.items.set i v, ?_, table_set s.items i hv⟩
  show Host.Outcome.next (s.onRequest p _) = _
  rw [State.onRequest_receiving s p _ hr, hanswer, storeItem_plain s i v hg, hclamped, hresult]
  simp only [hget]
  rfl

end Sys2Proof.KindsAndCurves
end

section
/-!
PROOFS. The configuration check (R7, R21, R23, R41, R42): what each of its groups holds, in ascending order, and when it is empty
(O26).
-/

namespace Sys2Proof.ConfigurationCheck

open Sys2Proof.Machine
open Sys2Proof.KindsAndCurves (isFail_iff configFindings_isFail)

variable (x : Items) (curves : Vector Curve 4)

/-! ## Pairs of an ascending list -/

theorem mem_pairs {n : Nat} {l : List (Fin n)} (h : l.Pairwise (· < ·)) (a b : Fin n) :
    (a, b) ∈ pairs l ↔ a < b ∧ a ∈ l ∧ b ∈ l := by
  induction l with
  | nil => simp [pairs]
  | cons c rest ih =>
    obtain ⟨hc, hrest⟩ := List.pairwise_cons.mp h
    simp only [pairs, List.mem_append, List.mem_map, Prod.mk.injEq, ih hrest, List.mem_cons]
    constructor
    · rintro (⟨d, hd, rfl, rfl⟩ | ⟨hab, ha, hb⟩)
      · exact ⟨hc _ hd, .inl rfl, .inr hd⟩
      · exact ⟨hab, .inr ha, .inr hb⟩
    · rintro ⟨hab, rfl | ha, rfl | hb⟩
      · exact absurd hab (lt_irrefl _)
      · exact .inl ⟨b, hb, rfl, rfl⟩
      · exact absurd hab (lt_asymm (hc a ha))
      · exact .inr ⟨hab, ha, hb⟩

theorem pairs_pairwise {n : Nat} {l : List (Fin n)} (h : l.Pairwise (· < ·)) :
    (pairs l).Pairwise fun p q => p.1 < q.1 ∨ p.1 = q.1 ∧ p.2 < q.2 := by
  induction l with
  | nil => exact List.Pairwise.nil
  | cons c rest ih =>
    obtain ⟨hc, hrest⟩ := List.pairwise_cons.mp h
    refine List.pairwise_append.mpr ⟨List.pairwise_map.mpr (hrest.imp fun hab => .inr ⟨rfl, hab⟩), ih hrest, ?_⟩
    intro p hp q hq
    obtain ⟨d, -, rfl⟩ := List.mem_map.mp hp
    exact .inl (hc q.1 ((mem_pairs hrest q.1 q.2).mp hq).2.1)

/-! ## Enabled kinds and used channels -/

/-- Kind `k` is enabled and names channel `c` (R21). -/
def usesChannel (k : Fin 4) (c : Chan) : Prop := (x.kind k).enabled = true ∧ c ∈ (x.kind k).channels

theorem mem_enabledKinds (k : Fin 4) : k ∈ x.enabledKinds ↔ (x.kind k).enabled = true := by simp [Items.enabledKinds]

theorem enabledKinds_pairwise : x.enabledKinds.Pairwise (· < ·) := (List.pairwise_lt_finRange 4).filter _

theorem mem_usedChannels (c : Chan) : c ∈ x.usedChannels ↔ ∃ k, usesChannel x k c := by
  simp [Items.usedChannels, mem_enabledKinds, usesChannel]

theorem usedChannels_pairwise : x.usedChannels.Pairwise (· < ·) := (List.pairwise_lt_finRange 8).filter _

/-- Findings of a group in ascending order: by the index, and by the second index where the first is the same (R42). -/
abbrev rises (f g : Finding) : Prop :=
  f.index.getD 0 < g.index.getD 0 ∨ (f.index = g.index ∧ f.index2.getD 0 < g.index2.getD 0)

/-! ## Channels out of range, and too close (R41) -/

theorem rangeFindings_rises : (rangeFindings x).Pairwise rises :=
  List.pairwise_map.mpr (((usedChannels_pairwise x).filter _).imp fun h => .inl h)

theorem mem_rangeFindings (f : Finding) : f ∈ rangeFindings x
    ↔ ∃ c, (∃ k, usesChannel x k c) ∧ (x.frequency c < 200000 ∨ 800000 < x.frequency c)
        ∧ f = ⟨.channelRange, none, some c.val, none⟩ := by
  simp only [rangeFindings, List.mem_map, List.mem_filter, mem_usedChannels, Bool.or_eq_true, decide_eq_true_eq, and_assoc,
    @eq_comm _ _ f]

theorem rangeFindings_nil : rangeFindings x = []
    ↔ ∀ k c, usesChannel x k c → 200000 ≤ x.frequency c ∧ x.frequency c ≤ 800000 := by
  simp only [List.eq_nil_iff_forall_not_mem, mem_rangeFindings]
  constructor
  · intro h k c hu
    by_contra hout
    exact h _ ⟨c, ⟨k, hu⟩, by omega, rfl⟩
  · rintro h f ⟨c, ⟨k, hu⟩, hout, -⟩
    have := h k c hu
    omega

theorem clashFindings_rises : (clashFindings x).Pairwise rises := by
  refine List.pairwise_map.mpr (((pairs_pairwise (usedChannels_pairwise x)).filter _).imp ?_)
  rintro ⟨a, b⟩ ⟨c, d⟩ (h | ⟨h, h'⟩)
  · exact .inl h
  · exact .inr ⟨congrArg (fun i : Chan => some i.val) h, h'⟩

theorem mem_clashFindings (f : Finding) : f ∈ clashFindings x
    ↔ ∃ c d : Chan, c < d ∧ (∃ k, usesChannel x k c) ∧ (∃ k, usesChannel x k d)
        ∧ freqGap (x.frequency c) (x.frequency d) < 8000 ∧ f = ⟨.channelClash, none, some c.val, some d.val⟩ := by
  simp only [clashFindings, List.mem_map, List.mem_filter, Prod.exists, mem_pairs (usedChannels_pairwise x), mem_usedChannels,
    decide_eq_true_eq, and_assoc, @eq_comm _ _ f]

theorem freqGap_comm (a b : Nat) : freqGap a b = freqGap b a := Nat.add_comm _ _

theorem clashFindings_nil : clashFindings x = []
    ↔ ∀ k l c d, usesChannel x k c → usesChannel x l d → c ≠ d → 8000 ≤ freqGap (x.frequency c) (x.frequency d) := by
  simp only [List.eq_nil_iff_forall_not_mem, mem_clashFindings]
  constructor
  · intro h k l c d hc hd hne
    by_contra hgap
    obtain hlt | hlt := lt_or_gt_of_ne hne
    · exact h _ ⟨c, d, hlt, ⟨k, hc⟩, ⟨l, hd⟩, Nat.not_le.mp hgap, rfl⟩
    · exact h _ ⟨d, c, hlt, ⟨l, hd⟩, ⟨k, hc⟩, freqGap_comm _ _ ▸ Nat.not_le.mp hgap, rfl⟩
  · rintro h f ⟨c, d, hlt, ⟨k, hc⟩, ⟨l, hd⟩, hgap, -⟩
    exact absurd hgap (Nat.not_lt.mpr (h k l c d hc hd (ne_of_lt hlt)))

/-! ## Kinds that use a channel twice, and pairs that share one (R21) -/

theorem reused_eq_some (k : Kind) (c : Chan) :
    k.reused = some c ↔ 1 < k.channels.count c ∧ ∀ d < c, ¬ 1 < k.channels.count d := by
  unfold Kind.reused
  rw [← Fin.find?_eq_find?_finRange, Fin.find?_eq_some_iff]
  simp

theorem reused_eq_none (k : Kind) : k.reused = none ↔ k.channels.Nodup := by
  rw [Kind.reused, List.find?_eq_none, List.nodup_iff_count_le_one]
  simp

theorem reusedFindings_rises : (reusedFindings x).Pairwise rises := by
  refine List.pairwise_filterMap.mpr ((enabledKinds_pairwise x).imp fun h f hf g hg => ?_)
  obtain ⟨c, -, rfl⟩ := Option.map_eq_some_iff.mp hf
  obtain ⟨d, -, rfl⟩ := Option.map_eq_some_iff.mp hg
  exact .inl h

theorem mem_reusedFindings (f : Finding) : f ∈ reusedFindings x
    ↔ ∃ (k : Fin 4) (c : Chan), (x.kind k).enabled = true ∧ 1 < (x.kind k).channels.count c
        ∧ (∀ d < c, ¬ 1 < (x.kind k).channels.count d) ∧ f = ⟨.kindChannelReused, none, some k.val, some c.val⟩ := by
  simp only [reusedFindings, List.mem_filterMap, mem_enabledKinds, Option.map_eq_some_iff, reused_eq_some]
  constructor
  · rintro ⟨k, hk, c, ⟨hc, hleast⟩, rfl⟩
    exact ⟨k, c, hk, hc, hleast, rfl⟩
  · rintro ⟨k, c, hk, hc, hleast, rfl⟩
    exact ⟨k, hk, c, ⟨hc, hleast⟩, rfl⟩

theorem reusedFindings_nil : reusedFindings x = [] ↔ ∀ k, (x.kind k).enabled = true → (x.kind k).channels.Nodup := by
  simp only [reusedFindings, List.filterMap_eq_nil_iff, mem_enabledKinds, Option.map_eq_none_iff, reused_eq_none]

theorem sharedFindings_rises : (sharedFindings x).Pairwise rises := by
  refine List.pairwise_map.mpr (((pairs_pairwise (enabledKinds_pairwise x)).filter _).imp ?_)
  rintro ⟨a, b⟩ ⟨c, d⟩ (h | ⟨h, h'⟩)
  · exact .inl h
  · exact .inr ⟨congrArg (fun i : Fin 4 => some i.val) h, h'⟩

theorem mem_sharedFindings (f : Finding) : f ∈ sharedFindings x
    ↔ ∃ k l : Fin 4, k < l ∧ (∃ c, usesChannel x k c ∧ usesChannel x l c)
        ∧ f = ⟨.channelShared, none, some k.val, some l.val⟩ := by
  simp only [sharedFindings, List.mem_map, List.mem_filter, Prod.exists, mem_pairs (enabledKinds_pairwise x), mem_enabledKinds,
    List.any_eq_true, List.contains_iff_mem, usesChannel]
  constructor
  · rintro ⟨k, l, ⟨⟨hlt, hk, hl⟩, c, hc, hd⟩, rfl⟩
    exact ⟨k, l, hlt, ⟨c, ⟨hk, hc⟩, hl, hd⟩, rfl⟩
  · rintro ⟨k, l, hlt, ⟨c, ⟨hk, hc⟩, hl, hd⟩, rfl⟩
    exact ⟨k, l, ⟨⟨hlt, hk, hl⟩, c, hc, hd⟩, rfl⟩

theorem sharedFindings_nil : sharedFindings x = [] ↔ ∀ k l c, usesChannel x k c → usesChannel x l c → k = l := by
  simp only [List.eq_nil_iff_forall_not_mem, mem_sharedFindings]
  constructor
  · intro h k l c hk hl
    by_contra hne
    obtain hlt | hlt := lt_or_gt_of_ne hne
    · exact h _ ⟨k, l, hlt, ⟨c, hk, hl⟩, rfl⟩
    · exact h _ ⟨l, k, hlt, ⟨c, hl, hk⟩, rfl⟩
  · rintro h f ⟨k, l, hlt, ⟨c, hk, hl⟩, -⟩
    exact absurd (h k l c hk hl) (ne_of_lt hlt)

/-! ## The knot at fault in a curve (R23) -/

/-- The knot at position `i` breaks the order against the one before it. -/
def wrongAt (ks : List Knot) (i : Nat) : Prop :=
  ∃ a b, 0 < i ∧ ks[i - 1]? = some a ∧ ks[i]? = some b ∧ (b.input ≤ a.input ∨ b.output < a.output)

/-- Inputs rise and outputs do not fall from one knot to the next. -/
def inOrder (a b : Knot) : Prop := a.input < b.input ∧ a.output ≤ b.output

theorem not_wrongAt_zero (ks : List Knot) : ¬ wrongAt ks 0 := fun ⟨_, _, h, _⟩ => absurd h (Nat.lt_irrefl 0)

theorem not_wrongAt_short {ks : List Knot} (h : ks.length ≤ 1) (i : Nat) : ¬ wrongAt ks i := by
  rintro ⟨a, b, hi, -, hb, -⟩
  obtain ⟨hlt, -⟩ := List.getElem?_eq_some_iff.mp hb
  omega

theorem wrongAt_succ (a b : Knot) (rest : List Knot) (i : Nat) :
    wrongAt (a :: b :: rest) (i + 1) ↔ (i = 0 ∧ ¬ inOrder a b) ∨ wrongAt (b :: rest) i := by
  have horder : ¬ inOrder a b ↔ b.input ≤ a.input ∨ b.output < a.output := by
    rw [inOrder, not_and_or, Nat.not_lt, Nat.not_le]
  rw [horder]
  cases i with
  | zero => simp [wrongAt]
  | succ i => simp [wrongAt]

/-- The first fall is at the first position whose knot breaks the order. -/
theorem fallAt_eq_some (k j : Nat) (ks : List Knot) :
    fallAt k ks = some j ↔ ∃ i, j = k + i ∧ wrongAt ks i ∧ ∀ i' < i, ¬ wrongAt ks i' := by
  induction ks generalizing k with
  | nil => simp [fallAt, not_wrongAt_short]
  | cons a rest ih =>
    cases rest with
    | nil => simp [fallAt, not_wrongAt_short]
    | cons b rest =>
      by_cases ho : inOrder a b
      · have hsucc (i : Nat) : wrongAt (a :: b :: rest) (i + 1) ↔ wrongAt (b :: rest) i := by
          rw [wrongAt_succ]
          simp [ho]
        have hnext : fallAt k (a :: b :: rest) = fallAt (k + 1) (b :: rest) := if_pos ho
        rw [hnext, ih]
        constructor
        · rintro ⟨i, rfl, hi, hleast⟩
          refine ⟨i + 1, by omega, (hsucc i).mpr hi, fun i' hlt => ?_⟩
          cases i' with
          | zero => exact not_wrongAt_zero _
          | succ i' => exact fun h => hleast i' (by omega) ((hsucc i').mp h)
        · rintro ⟨i, rfl, hi, hleast⟩
          cases i with
          | zero => exact absurd hi (not_wrongAt_zero _)
          | succ i =>
            exact ⟨i, by omega, (hsucc i).mp hi, fun i' hlt h => hleast (i' + 1) (by omega) ((hsucc i').mpr h)⟩
      · have hone : wrongAt (a :: b :: rest) 1 := (wrongAt_succ a b rest 0).mpr (.inl ⟨rfl, ho⟩)
        have hhere : fallAt k (a :: b :: rest) = some (k + 1) := if_neg ho
        rw [hhere, Option.some.injEq]
        constructor
        · rintro rfl
          refine ⟨1, rfl, hone, fun i' hlt => ?_⟩
          obtain rfl : i' = 0 := by omega
          exact not_wrongAt_zero _
        · rintro ⟨i, rfl, hi, hleast⟩
          have hpos : i ≠ 0 := fun h => not_wrongAt_zero _ (h ▸ hi)
          have hle : ¬ 1 < i := fun h => hleast 1 h hone
          omega

theorem fallAt_eq_none (ks : List Knot) : fallAt 0 ks = none ↔ ∀ i, ¬ wrongAt ks i := by
  constructor
  · intro h i
    induction i using Nat.strong_induction_on with
    | _ i ih =>
      intro hi
      have hsome := (fallAt_eq_some 0 i ks).mpr ⟨i, by omega, hi, ih⟩
      rw [h] at hsome
      cases hsome
  · intro h
    rw [Option.eq_none_iff_forall_ne_some]
    intro j hj
    obtain ⟨i, -, hi, -⟩ := (fallAt_eq_some 0 j ks).mp hj
    exact h i hi

theorem isChain_iff_not_wrongAt (ks : List Knot) : ks.IsChain inOrder ↔ ∀ i, ¬ wrongAt ks i := by
  induction ks with
  | nil => simp [not_wrongAt_short]
  | cons a rest ih =>
    cases rest with
    | nil => simp [not_wrongAt_short]
    | cons b rest =>
      rw [List.isChain_cons_cons, ih]
      constructor
      · rintro ⟨ho, hrest⟩ i
        cases i with
        | zero => exact not_wrongAt_zero _
        | succ i =>
          rw [wrongAt_succ]
          simp [ho, hrest i]
      · intro h
        have hboth (i : Nat) := not_or.mp (mt (wrongAt_succ a b rest i).mpr (h (i + 1)))
        exact ⟨not_not.mp fun ho => (hboth 0).1 ⟨rfl, ho⟩, fun i => (hboth i).2⟩

theorem inOrder_trans {a b c : Knot} (h : inOrder a b) (k : inOrder b c) : inOrder a c :=
  ⟨h.1.trans k.1, h.2.trans k.2⟩

/-- No knot breaks the order exactly when all inputs rise and no output falls. -/
theorem not_wrongAt_iff (ks : List Knot) : (∀ i, ¬ wrongAt ks i)
    ↔ (ks.map Knot.input).Pairwise (· < ·) ∧ (ks.map Knot.output).Pairwise (· ≤ ·) := by
  have htrans : IsTrans Knot inOrder := ⟨fun _ _ _ => inOrder_trans⟩
  rw [← isChain_iff_not_wrongAt, List.isChain_iff_pairwise, List.pairwise_map, List.pairwise_map, ← List.pairwise_and_iff]
  exact Iff.rfl

/-- The position that the tests of R23 name, one after the other. -/
def firstFault (ks : List Knot) (j : Nat) : Prop :=
  (ks.head?.map Knot.input ≠ some 0 ∧ j = 0)
  ∨ (ks.head?.map Knot.input = some 0 ∧
      ((wrongAt ks j ∧ ∀ i < j, ¬ wrongAt ks i)
        ∨ ((∀ i, ¬ wrongAt ks i) ∧ ks.getLast?.map Knot.input ≠ some 4095 ∧ j = ks.length - 1)))

theorem curveFault_eq_some (ks : List Knot) (j : Nat) : curveFault ks = some j ↔ firstFault ks j := by
  have hfall (j : Nat) : fallAt 0 ks = some j ↔ wrongAt ks j ∧ ∀ i < j, ¬ wrongAt ks i := by
    rw [fallAt_eq_some]
    simp
  unfold curveFault firstFault
  by_cases hhead : ks.head?.map Knot.input = some 0
  · simp only [hhead, ne_eq, not_true, if_false, false_and, false_or, true_and, ← hfall, ← fallAt_eq_none]
    cases hf : fallAt 0 ks with
    | some k => simp
    | none =>
      by_cases hlast : ks.getLast?.map Knot.input = some 4095
      · simp [hlast]
      · simp [hlast, eq_comm]
  · simp [hhead, eq_comm]

theorem curveFault_eq_none (ks : List Knot) : curveFault ks = none
    ↔ ks.head?.map Knot.input = some 0 ∧ ks.getLast?.map Knot.input = some 4095
      ∧ (ks.map Knot.input).Pairwise (· < ·) ∧ (ks.map Knot.output).Pairwise (· ≤ ·) := by
  rw [← not_wrongAt_iff, ← fallAt_eq_none]
  unfold curveFault
  by_cases hhead : ks.head?.map Knot.input = some 0
  · simp only [hhead, ne_eq, not_true, if_false, true_and]
    cases hf : fallAt 0 ks with
    | some k => simp
    | none => simp
  · simp [hhead]

/-! ## The curves that enabled kinds name (R23) -/

theorem curveUser_eq_some (c k : Fin 4) : x.curveUser c = some k
    ↔ (x.kind k).enabled = true ∧ (x.kind k).curve = c ∧ ∀ l < k, ¬ ((x.kind l).enabled = true ∧ (x.kind l).curve = c) := by
  unfold Items.curveUser Items.enabledKinds
  rw [List.find?_filter, ← Fin.find?_eq_find?_finRange, Fin.find?_eq_some_iff]
  simp [and_assoc]

theorem curveUser_eq_none (c : Fin 4) : x.curveUser c = none ↔ ∀ k, (x.kind k).enabled = true → (x.kind k).curve ≠ c := by
  simp [Items.curveUser, List.find?_eq_none, mem_enabledKinds]

theorem curveFinding_eq_some (c : Fin 4) (f : Finding) : curveFinding x curves c = some f
    ↔ ∃ k, x.curveUser c = some k
        ∧ (((∀ ks, curves[c] ≠ .loaded ks) ∧ f = ⟨.curveUnloaded, none, some c.val, some k.val⟩)
          ∨ ∃ ks j, curves[c] = .loaded ks ∧ curveFault ks = some j ∧ f = ⟨.curveOrder, none, some c.val, some j⟩) := by
  unfold curveFinding
  cases hu : x.curveUser c with
  | none => simp
  | some k =>
    cases hc : curves[c] with
    | loaded ks => simp [eq_comm]
    | _ => simp [eq_comm]

theorem curveFinding_eq_none (c : Fin 4) : curveFinding x curves c = none
    ↔ x.curveUser c = none ∨ ∃ ks, curves[c] = .loaded ks ∧ curveFault ks = none := by
  unfold curveFinding
  cases hu : x.curveUser c with
  | none => simp
  | some k =>
    cases hc : curves[c] with
    | loaded ks => simp
    | _ => simp

theorem curveFindings_rises : (curveFindings x curves).Pairwise rises := by
  refine List.pairwise_filterMap.mpr ((List.pairwise_lt_finRange 4).imp @fun c d h f hf g hg => ?_)
  have hindex {c : Fin 4} {f : Finding} (hf : curveFinding x curves c = some f) : f.index = some c.val := by
    obtain ⟨k, -, ⟨-, rfl⟩ | ⟨ks, j, -, -, rfl⟩⟩ := (curveFinding_eq_some x curves c f).mp hf <;> rfl
  left
  rw [hindex hf, hindex hg]
  exact h

theorem mem_curveFindings (f : Finding) : f ∈ curveFindings x curves
    ↔ ∃ (c k : Fin 4), (x.kind k).enabled = true ∧ (x.kind k).curve = c
        ∧ (∀ l < k, ¬ ((x.kind l).enabled = true ∧ (x.kind l).curve = c))
        ∧ (((∀ ks, curves[c] ≠ .loaded ks) ∧ f = ⟨.curveUnloaded, none, some c.val, some k.val⟩)
          ∨ ∃ ks j, curves[c] = .loaded ks ∧ firstFault ks j ∧ f = ⟨.curveOrder, none, some c.val, some j⟩) := by
  simp only [curveFindings, List.mem_filterMap, List.mem_finRange, true_and, curveFinding_eq_some, curveUser_eq_some,
    curveFault_eq_some, and_assoc]

theorem curveFindings_nil : curveFindings x curves = []
    ↔ ∀ k, (x.kind k).enabled = true → ∃ knots, curves[(x.kind k).curve] = .loaded knots
        ∧ knots.head?.map Knot.input = some 0 ∧ knots.getLast?.map Knot.input = some 4095
        ∧ (knots.map Knot.input).Pairwise (· < ·) ∧ (knots.map Knot.output).Pairwise (· ≤ ·) := by
  simp only [curveFindings, List.filterMap_eq_nil_iff, List.mem_finRange, true_implies, curveFinding_eq_none,
    ← curveFault_eq_none]
  constructor
  · intro h k hk
    exact (h (x.kind k).curve).resolve_left fun hnone => (curveUser_eq_none x _).mp hnone k hk rfl
  · intro h c
    cases hu : x.curveUser c with
    | none => exact .inl rfl
    | some k =>
      obtain ⟨hk, rfl, -⟩ := (curveUser_eq_some x c k).mp hu
      exact .inr (h k hk)

/-! ## The verdict -/

theorem levelFindings_nil : levelFindings x = []
    ↔ x.leaveLevel < x.enterLevel ∧ x.contactOff < x.contactOn ∧ 56 * x.dwell + 100 ≤ x.framePeriod := by
  simp [levelFindings]

theorem configFindings_nil : configFindings x curves = []
    ↔ rangeFindings x = [] ∧ clashFindings x = [] ∧ reusedFindings x = [] ∧ sharedFindings x = []
      ∧ curveFindings x curves = [] ∧ levelFindings x = [] := by
  simp only [configFindings, List.append_eq_nil_iff, and_assoc]

/-- Settles O26: each group holds what its members say, in order, and the check finds nothing when no group does. -/
theorem configurationCheckVerdict : Obligations.ConfigurationCheckVerdict := by
  intro x curves
  refine ⟨⟨rangeFindings x, clashFindings x, reusedFindings x, sharedFindings x, curveFindings x curves, ?_,
      rangeFindings_rises x, clashFindings_rises x, reusedFindings_rises x, sharedFindings_rises x,
      curveFindings_rises x curves, mem_rangeFindings x, mem_clashFindings x, mem_reusedFindings x, mem_sharedFindings x,
      mem_curveFindings x curves⟩,
    fun f hf => (isFail_iff f).mp (configFindings_isFail x curves f hf), ?_⟩
  · simp only [configFindings, levelFindings, List.append_assoc]
  · rw [configFindings_nil, rangeFindings_nil, clashFindings_nil, reusedFindings_nil, sharedFindings_nil, curveFindings_nil,
      levelFindings_nil]
    exact Iff.rfl

end Sys2Proof.ConfigurationCheck
end

section
/-!
PROOFS. The evaluation of a sweep (R59 to R61): which channel is heard as which candidate, the reduction and the order of the
candidates, and the slots they take (O47).
-/

namespace Sys2Proof.ScanEngine

open Sys2Proof.Machine Sys2Proof.KindsAndCurves
open Sys2Proof.PositionSolver (peak_isPeak)

variable (s : State) (got : List SweepReading)

/-! ## The peak and the kind of a channel -/

/-- A set of readings has one peak (R59). -/
theorem isPeak_unique {rs : List Reading} {j j' a a' : Nat} (h : isPeak rs j a) (h' : isPeak rs j' a') : j = j' ∧ a = a' := by
  obtain ⟨hall, hbelow, hat⟩ := h
  obtain ⟨hall', hbelow', hat'⟩ := h'
  obtain ⟨rfl, rfl, rfl⟩ | ⟨r, hr, rfl⟩ := hat
  · obtain ⟨-, rfl, rfl⟩ | ⟨r', hr', -⟩ := hat'
    · exact ⟨rfl, rfl⟩
    · simp at hr'
  · obtain ⟨rfl, -⟩ | ⟨r', hr', rfl⟩ := hat'
    · simp at hr
    · have hamp : r.amp = r'.amp :=
        Nat.le_antisymm (hall' r (List.mem_of_getElem? hr)) (hall r' (List.mem_of_getElem? hr'))
      refine ⟨?_, hamp⟩
      obtain hlt | heq | hgt := Nat.lt_trichotomy j j'
      · exact absurd (hbelow' j r hlt hr) (by omega)
      · exact heq
      · exact absurd (hbelow j' r' hgt hr') (by omega)

/-- Channel `ch` is that of end `e` of the enabled kind `k`; where both ends name it, it is the tip's (R19). -/
def belongsTo (items : Items) (ch : Chan) (k : Fin 4) (e : ToolEnd) : Prop :=
  (items.kinds[k]).enabled = true
    ∧ (match e with
      | .tip => (items.kinds[k]).tip = ch
      | .eraser => (items.kinds[k]).eraser = some ch ∧ (items.kinds[k]).tip ≠ ch)

/-- The end of kind `k` that channel `ch` belongs to. -/
def endOf (items : Items) (ch : Chan) (k : Fin 4) : Option (Fin 4 × ToolEnd) :=
  if (items.kind k).enabled then
    if (items.kind k).tip = ch then some (k, .tip) else if (items.kind k).eraser = some ch then some (k, .eraser) else none
  else none

theorem endOf_eq_some (items : Items) (ch : Chan) (k k' : Fin 4) (e : ToolEnd) :
    endOf items ch k = some (k', e) ↔ k = k' ∧ belongsTo items ch k e := by
  unfold endOf belongsTo Items.kind
  generalize items.kinds[k] = entry
  by_cases hen : entry.enabled = true
  · by_cases htip : entry.tip = ch
    · cases e <;> simp [hen, htip]
    · by_cases her : entry.eraser = some ch <;> cases e <;> simp [hen, htip, her]
  · simp [hen]

theorem endOf_eq_none (items : Items) (ch : Chan) (k : Fin 4) : endOf items ch k = none ↔ ∀ e, ¬ belongsTo items ch k e := by
  rw [Option.eq_none_iff_forall_ne_some]
  constructor
  · exact fun h e hb => h (k, e) ((endOf_eq_some items ch k k e).mpr ⟨rfl, hb⟩)
  · rintro h ⟨k', e⟩ hk
    exact h e ((endOf_eq_some items ch k k' e).mp hk).2

/-- The kind and end of a channel (R59). -/
def kindAndEnd (items : Items) (ch : Chan) : Option (Fin 4 × ToolEnd) := (List.finRange 4).findSome? (endOf items ch)

/-- A channel goes to the lowest enabled kind that it belongs to. -/
theorem kindAndEnd_eq_some (items : Items) (ch : Chan) (k : Fin 4) (e : ToolEnd) :
    kindAndEnd items ch = some (k, e) ↔ belongsTo items ch k e ∧ ∀ l < k, ∀ e, ¬ belongsTo items ch l e := by
  rw [kindAndEnd, ← Fin.findSome?_eq_findSome?_finRange, Fin.findSome?_eq_some_iff]
  simp only [endOf_eq_some, endOf_eq_none]
  constructor
  · rintro ⟨l, ⟨rfl, hb⟩, hleast⟩
    exact ⟨hb, hleast⟩
  · rintro ⟨hb, hleast⟩
    exact ⟨k, ⟨rfl, hb⟩, hleast⟩

/-! ## The candidates a sweep finds (R59) -/

/-- The readings of a channel on an axis, its listed coils substituted. -/
def heard (s : State) (got : List SweepReading) (ch : Chan) (a : Axis) : List Reading :=
  substitute 0 (s.map.coils a) (sweepReadings got ch a)

/-- Channel `ch` is heard as candidate `c`. -/
def heardAs (s : State) (got : List SweepReading) (ch : Chan) (c : Candidate) : Prop :=
  ∃ ax ay, isPeak (heard s got ch .x) c.xPeak ax ∧ isPeak (heard s got ch .y) c.yPeak ay
    ∧ c.strength = min ax ay ∧ s.items.enterLevel ≤ c.strength
    ∧ belongsTo s.items ch c.kind c.toolEnd ∧ ∀ k < c.kind, ∀ e, ¬ belongsTo s.items ch k e

theorem candidate_eq_some (ch : Chan) (c : Candidate) : s.candidate got ch = some c ↔ heardAs s got ch c := by
  have hdef : s.candidate got ch
      = if s.items.enterLevel ≤ min (peak (heard s got ch .x)).2 (peak (heard s got ch .y)).2 then
          (kindAndEnd s.items ch).map fun ke =>
            { kind := ke.1, toolEnd := ke.2, strength := min (peak (heard s got ch .x)).2 (peak (heard s got ch .y)).2
              xPeak := (peak (heard s got ch .x)).1, yPeak := (peak (heard s got ch .y)).1 }
        else none := rfl
  rw [hdef]
  constructor
  · intro h
    split at h
    · rename_i hlevel
      obtain ⟨⟨k, e⟩, hke, rfl⟩ := Option.map_eq_some_iff.mp h
      exact ⟨_, _, peak_isPeak _, peak_isPeak _, rfl, hlevel, (kindAndEnd_eq_some s.items ch k e).mp hke⟩
    · cases h
  · rintro ⟨ax, ay, hx, hy, hstrength, hlevel, hbelongs⟩
    obtain ⟨hxp, rfl⟩ := isPeak_unique hx (peak_isPeak _)
    obtain ⟨hyp, rfl⟩ := isPeak_unique hy (peak_isPeak _)
    rw [if_pos (hstrength ▸ hlevel), (kindAndEnd_eq_some s.items ch c.kind c.toolEnd).mpr hbelongs]
    obtain ⟨kind, toolEnd, strength, xPeak, yPeak⟩ := c
    simp only at hxp hyp hstrength
    subst hxp hyp hstrength
    rfl

/-! ## The reduction and the order (R60, R61) -/

theorem candidate_unique {list : List Chan} (h : list.Nodup) {c d : Candidate} (hc : c ∈ list.filterMap (s.candidate got))
    (hd : d ∈ list.filterMap (s.candidate got)) (hk : c.kind = d.kind) (he : c.toolEnd = d.toolEnd) : c = d := by
  by_contra hne
  have hsymm : Std.Symm otherEnd := ⟨fun _ _ hab hk he => hab hk.symm he.symm⟩
  exact (candidates_otherEnd s got h).forall hc hd hne hk he

theorem beatenBy_iff (c d : Candidate) : c.beatenBy d = true
    ↔ d.kind = c.kind ∧ d.toolEnd ≠ c.toolEnd ∧ (c.strength < d.strength ∨ d.strength = c.strength ∧ d.toolEnd = .tip) := by
  simp [Candidate.beatenBy, and_assoc]

/-- The ends that the first reduction keeps are the candidates that no other end beats. -/
theorem mem_candidates {list : List Chan} (c : Candidate) : c ∈ s.candidates list got
    ↔ (c ∈ list.filterMap (s.candidate got) ∧ ∀ d ∈ list.filterMap (s.candidate got), ¬ c.beatenBy d = true)
      ∧ ¬ s.kindTracked c.kind = true := by
  unfold State.candidates
  dsimp only
  rw [(foldr_insertCandidate_perm _).mem_iff, List.mem_filter, List.mem_filter]
  simp only [Bool.not_eq_true', Bool.eq_false_iff, Ne, List.any_eq_true, not_exists, not_and]

/-- Of a kind found and not tracked the stronger end is kept, the tip on a tie (R60). -/
theorem exists_kept {list : List Chan} (h : list.Nodup) {c : Candidate} (hc : c ∈ list.filterMap (s.candidate got))
    (ht : ¬ s.kindTracked c.kind = true) :
    ∃ d ∈ s.candidates list got, d.kind = c.kind
      ∧ (c.strength < d.strength ∨ c.strength = d.strength ∧ (d.toolEnd = c.toolEnd ∨ d.toolEnd = .tip)) := by
  by_cases hbeaten : ∃ d ∈ list.filterMap (s.candidate got), c.beatenBy d = true
  · obtain ⟨d, hd, hcd⟩ := hbeaten
    obtain ⟨hk, he, hstrength⟩ := (beatenBy_iff c d).mp hcd
    refine ⟨d, (mem_candidates s got d).mpr ⟨⟨hd, fun b hb hdb => ?_⟩, hk ▸ ht⟩, hk,
      hstrength.imp_right fun ⟨heq, htip⟩ => ⟨heq.symm, .inr htip⟩⟩
    obtain ⟨hkb, heb, hstrength'⟩ := (beatenBy_iff d b).mp hdb
    have hends : b.toolEnd = c.toolEnd := by
      cases hb : b.toolEnd <;> cases hd : d.toolEnd <;> cases hc : c.toolEnd <;> simp_all
    obtain rfl := candidate_unique s got h hb hc (hkb.trans hk) hends
    obtain hlt | ⟨heq, htip⟩ := hstrength
    · omega
    · obtain hlt' | ⟨-, htip'⟩ := hstrength'
      · omega
      · exact he (htip.trans htip'.symm)
  · have hkept : c ∈ s.candidates list got :=
      (mem_candidates s got c).mpr ⟨⟨hc, fun d hd hcd => hbeaten ⟨d, hd, hcd⟩⟩, ht⟩
    exact ⟨c, hkept, rfl, .inr ⟨rfl, .inl rfl⟩⟩

theorem before_iff (c d : Candidate) :
    c.before d = true ↔ d.strength < c.strength ∨ d.strength = c.strength ∧ c.kind ≤ d.kind := by
  simp [Candidate.before]

theorem before_trans {b c d : Candidate} (h : b.before c = true) (k : c.before d = true) : b.before d = true := by
  rw [before_iff] at *
  omega

theorem before_total {c d : Candidate} (h : ¬ c.before d = true) : d.before c = true := by
  rw [before_iff] at *
  omega

theorem insertCandidate_pairwise (c : Candidate) {l : List Candidate} (h : l.Pairwise fun a b => a.before b = true) :
    (insertCandidate c l).Pairwise fun a b => a.before b = true := by
  induction l with
  | nil => exact List.pairwise_singleton _ c
  | cons d rest ih =>
    obtain ⟨hd, hrest⟩ := List.pairwise_cons.mp h
    unfold insertCandidate
    split
    · rename_i hcd
      refine List.pairwise_cons.mpr ⟨fun e he => ?_, h⟩
      obtain rfl | he := List.mem_cons.mp he
      · exact hcd
      · exact before_trans hcd (hd e he)
    · rename_i hcd
      refine List.pairwise_cons.mpr ⟨fun e he => ?_, ih hrest⟩
      obtain rfl | he := List.mem_cons.mp ((insertCandidate_perm c rest).mem_iff.mp he)
      · exact before_total hcd
      · exact hd e he

theorem foldr_insertCandidate_pairwise (l : List Candidate) :
    (l.foldr insertCandidate []).Pairwise fun a b => a.before b = true := by
  induction l with
  | nil => exact List.Pairwise.nil
  | cons c rest ih => exact insertCandidate_pairwise c ih

/-- The greatest strength comes first, equal ones in ascending kind (R61). -/
theorem candidates_ordered {list : List Chan} (h : list.Nodup) : (s.candidates list got).Pairwise
    fun c d => d.strength < c.strength ∨ (d.strength = c.strength ∧ c.kind < d.kind) := by
  refine ((foldr_insertCandidate_pairwise _).and (freshKinds_candidates s got h).1).imp fun {c d} hcd => ?_
  obtain ⟨hbefore, hkind⟩ := hcd
  exact ((before_iff c d).mp hbefore).imp_right fun ⟨heq, hle⟩ => ⟨heq, lt_of_le_of_ne hle hkind⟩

/-! ## The slots (R61) -/

/-- The slot that a candidate takes; FREE where there is none. -/
def slotOf : Option Candidate → Slot
  | none => .free
  | some c => .tracking c.track

theorem allocate_s0 (c : Candidate) (h : s.slot0 = .free) : s.allocate c = { s with slot0 := .tracking c.track } := by
  simp only [State.allocate, h]
  rfl

theorem allocate_s1 (c : Candidate) (h0 : s.slot0 ≠ .free) (h1 : s.slot1 = .free) :
    s.allocate c = { s with slot1 := .tracking c.track } := by
  unfold State.allocate
  split
  · exact absurd ‹_› h0
  · rfl
  · rename_i h
    exact absurd (h1.symm.trans h) nofun

theorem allocate_full (c : Candidate) (h0 : s.slot0 ≠ .free) (h1 : s.slot1 ≠ .free) : s.allocate c = s := by
  unfold State.allocate
  split
  · exact absurd ‹_› h0
  · exact absurd ‹_› h1
  · rfl

theorem allocateAll_full (cs : List Candidate) (h0 : s.slot0 ≠ .free) (h1 : s.slot1 ≠ .free) :
    cs.foldl State.allocate s = s := by
  induction cs with
  | nil => rfl
  | cons c rest ih => rw [List.foldl_cons, allocate_full s c h0 h1, ih]

theorem allocateAll_s1 (cs : List Candidate) (h0 : s.slot0 ≠ .free) (h1 : s.slot1 = .free) :
    cs.foldl State.allocate s = { s with slot1 := slotOf cs[0]? } := by
  cases cs with
  | nil =>
    show s = { s with slot1 := .free }
    rw [← h1]
  | cons c rest =>
    rw [List.foldl_cons, allocate_s1 s c h0 h1, allocateAll_full { s with slot1 := .tracking c.track } rest h0 nofun]
    rfl

theorem allocateAll_s0 (cs : List Candidate) (h0 : s.slot0 = .free) (h1 : s.slot1 ≠ .free) :
    cs.foldl State.allocate s = { s with slot0 := slotOf cs[0]? } := by
  cases cs with
  | nil =>
    show s = { s with slot0 := .free }
    rw [← h0]
  | cons c rest =>
    rw [List.foldl_cons, allocate_s0 s c h0, allocateAll_full { s with slot0 := .tracking c.track } rest nofun h1]
    rfl

theorem allocateAll_both (cs : List Candidate) (h0 : s.slot0 = .free) (h1 : s.slot1 = .free) :
    cs.foldl State.allocate s = { s with slot0 := slotOf cs[0]?, slot1 := slotOf cs[1]? } := by
  cases cs with
  | nil =>
    cases s
    cases h0
    cases h1
    rfl
  | cons c rest =>
    rw [List.foldl_cons, allocate_s0 s c h0, allocateAll_s1 { s with slot0 := .tracking c.track } rest nofun h1]
    rfl

/-- Settles O47: the candidates found, reduced and ordered, take the FREE slots in turn. -/
theorem sweepAllocates : Obligations.SweepAllocates := by
  intro s sw hn readings belongs found tracked put
  have hreadings (ch : Chan) (a : Axis) : readings ch a (s.map.axis a) = heard s sw.got ch a := by
    simp only [readings, heard, sweepReadings, Bool.decide_and]
    rfl
  have hfound (c : Candidate) : found c ↔ c ∈ sw.list.filterMap (s.candidate sw.got) := by
    rw [List.mem_filterMap]
    refine exists_congr fun ch => and_congr_right fun _ => ?_
    rw [candidate_eq_some, heardAs, ← hreadings ch .x, ← hreadings ch .y]
    exact Iff.rfl
  have htracked (k : Fin 4) : tracked k ↔ s.kindTracked k = true := (kindTracked_iff s k).symm
  have hput (c : Option Candidate) : put c = slotOf c := by cases c <;> rfl
  refine ⟨s.candidates sw.list sw.got, fun c hc => ?_, candidates_ordered s sw.got hn, ?_, fun c hc ht => ?_,
    fun h0 h1 => ?_, fun h0 h1 => ?_, fun h0 h1 => ?_, fun h0 h1 => ?_⟩
  · obtain ⟨⟨hc, -⟩, ht⟩ := (mem_candidates s sw.got c).mp hc
    exact ⟨(hfound c).mpr hc, mt (htracked c.kind).mp ht⟩
  · exact List.pairwise_map.mpr (freshKinds_candidates s sw.got hn).1
  · exact exists_kept s sw.got hn ((hfound c).mp hc) (mt (htracked c.kind).mpr ht)
  · rw [hput, hput]
    exact allocateAll_both s _ h0 h1
  · rw [hput]
    exact allocateAll_s0 s _ h0 h1
  · rw [hput]
    exact allocateAll_s1 s _ h0 h1
  · exact allocateAll_full s _ h0 h1

end Sys2Proof.ScanEngine
end

section
/-!
PROOFS. The lapse timer of a port is read by no event of the engine, the ring or the captures: what a lapse takes from a port is the
same whether its timer stands at nothing left or is STOPPED (R154, R155; O18).
-/

namespace Sys2Proof.KindsAndCurves

open Sys2Proof.Machine

variable (s : State) (p q : PortId) (e : Fin 4)

/-! ## The timer stopped -/

/-- A port with its lapse timer STOPPED. -/
def untimed (x : Port) : Port := { x with lapseTimer := none }

/-- The lapse timer of port `p` STOPPED (R154). -/
def stopTimer (p : PortId) (s : State) : State := s.updPort p untimed

/-- An operation that neither reads nor writes the lapse timer of `p`. -/
def timerBlind (p : PortId) (g : State → State) : Prop := ∀ s, g (stopTimer p s) = stopTimer p (g s)

/-- A port as it stands for every operation that reads no timer. -/
theorem stopTimer_port : ((stopTimer p s).port q).framing = (s.port q).framing
    ∧ ((stopTimer p s).port q).cursor = (s.port q).cursor ∧ ((stopTimer p s).port q).settings = (s.port q).settings := by
  cases p <;> cases q <;> exact ⟨rfl, rfl, rfl⟩

theorem stopTimer_framing : ((stopTimer p s).port q).framing = (s.port q).framing := (stopTimer_port s p q).1

theorem stopTimer_cursor : ((stopTimer p s).port q).cursor = (s.port q).cursor := (stopTimer_port s p q).2.1

theorem stopTimer_settings : ((stopTimer p s).port q).settings = (s.port q).settings := (stopTimer_port s p q).2.2

theorem stopTimer_lag : (stopTimer p s).lag q = s.lag q := by cases p <;> cases q <;> rfl

theorem stopTimer_unread : (stopTimer p s).unread q = s.unread q := by cases p <;> cases q <;> rfl

theorem stopTimer_readPlace : (stopTimer p s).readPlace q = s.readPlace q := by
  cases p <;> cases q <;> rfl

theorem timerBlind_comp {p : PortId} {f g : State → State} (hf : timerBlind p f) (hg : timerBlind p g) :
    timerBlind p fun s => g (f s) := fun s => by
  dsimp only
  rw [hf s, hg (f s)]

theorem timerBlind_updPort {f : Port → Port} (hf : ∀ x, f (untimed x) = untimed (f x)) :
    timerBlind p fun s => s.updPort q f := by
  intro s
  obtain rfl | rfl := PortId.eq_or_other p q
  · simp only [stopTimer, State.updPort, State.setPort_same, State.setPort_setPort, hf]
  · cases p <;> rfl

theorem timerBlind_raise (c : Cond) : timerBlind p fun s => s.raise q c := timerBlind_updPort p q fun _ => rfl

theorem timerBlind_raiseBoth (c : Cond) : timerBlind p fun s => s.raiseBoth c :=
  timerBlind_comp (timerBlind_raise p .p0 c) (timerBlind_raise p .p1 c)

theorem timerBlind_setCursor (c : Cursor) : timerBlind p fun s => s.setCursor q c := timerBlind_updPort p q fun _ => rfl

theorem timerBlind_setResp (left : Nat) (resp : Resp) : timerBlind p fun s => s.setResp q left resp :=
  timerBlind_updPort p q fun _ => rfl

theorem timerBlind_respond (reply : Reply) (xfer : Xfer) : timerBlind p fun s => s.respond q reply xfer :=
  timerBlind_updPort p q fun _ => rfl

theorem timerBlind_setEntry (x : Option Held) : timerBlind p fun s => s.setEntry e x := by
  intro s
  cases p <;> rfl

theorem timerBlind_setSlot (i : SlotId) (x : Slot) : timerBlind p fun s => s.setSlot i x := by
  intro s
  cases p <;> cases i <;> rfl

theorem timerBlind_failEntry (h : Held) (reason : FailReason) : timerBlind p fun s => s.failEntry e h reason :=
  timerBlind_comp (timerBlind_setEntry p e _) (timerBlind_raise p h.owner .capture)

theorem timerBlind_forEntries {f : Fin 4 → State → State} (hf : ∀ e, timerBlind p (f e)) :
    timerBlind p fun s => s.forEntries f :=
  timerBlind_comp (timerBlind_comp (timerBlind_comp (hf 0) (hf 1)) (hf 2)) (hf 3)

theorem timerBlind_forPorts {f : PortId → State → State} (hf : ∀ q, timerBlind p (f q)) :
    timerBlind p fun s => s.forPorts f := timerBlind_comp (hf .p0) (hf .p1)

theorem stopTimer_entry : (stopTimer p s).entry e = s.entry e := by cases p <;> rfl

theorem stopTimer_slot (i : SlotId) : (stopTimer p s).slot i = s.slot i := by cases p <;> cases i <;> rfl

/-! ## Appends and flushes -/

theorem timerBlind_lapCursor (old : Seq) : timerBlind p fun s => s.lapCursor q old := by
  intro s
  unfold State.lapCursor
  dsimp only
  rw [stopTimer_cursor]
  by_cases hn : (s.port q).cursor.next = old
  · rw [if_pos hn, if_pos hn]
    cases (s.port q).cursor.mode with
    | sequential => exact timerBlind_comp (timerBlind_setCursor p q _) (timerBlind_raise p q .lapped) s
    | latest => exact timerBlind_setCursor p q _ s
  · rw [if_neg hn, if_neg hn]

theorem timerBlind_overtakeEntry (old : Seq) : timerBlind p (State.overtakeEntry old e) := by
  intro s
  unfold State.overtakeEntry
  rw [stopTimer_entry]
  cases s.entry e with
  | none => rfl
  | some h =>
    dsimp only
    by_cases hn : h.stage = .filling ∧ h.nextSeq = some old
    · rw [if_pos hn, if_pos hn]
      exact timerBlind_failEntry p e h .overtaken s
    · rw [if_neg hn, if_neg hn]

theorem timerBlind_flushEntry : timerBlind p (State.flushEntry e) := by
  intro s
  unfold State.flushEntry
  rw [stopTimer_entry]
  cases s.entry e with
  | none => rfl
  | some h =>
    dsimp only
    by_cases hn : h.stage = .armed ∨ h.stage = .filling
    · rw [if_pos hn, if_pos hn]
      exact timerBlind_failEntry p e h .flushed s
    · rw [if_neg hn, if_neg hn]

/-- The ring, the banks, the choices and the engine are beside the ports. -/
theorem timerBlind_append (time : Time) (body : RecordBody) : timerBlind p fun s => s.append time body := by
  intro s
  have hfull (ring : Ring) (store : Store) (old : Seq) :=
    timerBlind_comp (timerBlind_forPorts p fun q => timerBlind_lapCursor p q old)
      (timerBlind_forEntries p fun e => timerBlind_overtakeEntry p e old) { s with ring := ring, store := store }
  unfold State.append
  dsimp only
  have hcount : (stopTimer p s).count = s.count ∧ (stopTimer p s).capacity = s.capacity := by cases p <;> exact ⟨rfl, rfl⟩
  rw [hcount.1, hcount.2]
  by_cases hroom : s.count < s.capacity
  · rw [if_pos hroom, if_pos hroom]
    cases p <;> rfl
  · rw [if_neg hroom, if_neg hroom]
    cases p <;> exact hfull _ _ _

theorem timerBlind_flushCursor : timerBlind p (State.flushCursor q) := by
  intro s
  have hring : (stopTimer p s).ring = s.ring := by cases p <;> rfl
  unfold State.flushCursor
  rw [stopTimer_cursor, hring]
  exact timerBlind_setCursor p q _ s

theorem timerBlind_flushRing : timerBlind p State.flushRing := by
  intro s
  have hflush := timerBlind_comp (timerBlind_comp (timerBlind_forPorts p fun q => timerBlind_flushCursor p q)
    (timerBlind_forEntries p fun e => timerBlind_flushEntry p e)) (timerBlind_raiseBoth p .ring)
    { s with ring := { s.ring with o := s.ring.w } }
  unfold State.flushRing
  cases p <;> exact hflush

/-! ## What falls together with an append -/

/-- A request that reads no timer: its answer is the same, and so is what it does. -/
def answerBlind (p : PortId) (f : State → Answer) : Prop :=
  ∀ s, f (stopTimer p s) = { f s with state := stopTimer p (f s).state }

theorem answerBlind_answerRead (n : Byte) : answerBlind p fun s => s.answerRead q n := by
  intro s
  have hring : (stopTimer p s).ring = s.ring := by cases p <;> rfl
  unfold State.answerRead
  dsimp only
  rw [stopTimer_cursor, stopTimer_lag, stopTimer_unread, hring]
  cases (s.port q).cursor.mode <;> exact congrArg (Answer.mk · _ _) (timerBlind_setCursor p q _ s)

theorem answerBlind_answerMark : answerBlind p fun s => s.answerMark q := by
  intro s
  unfold State.answerMark
  dsimp only
  rw [stopTimer_cursor]
  exact congrArg (Answer.mk · _ _) (timerBlind_setCursor p q _ s)

theorem answerBlind_answerRewind : answerBlind p fun s => s.answerRewind q := by
  intro s
  have hring : (stopTimer p s).ring = s.ring ∧ (stopTimer p s).count = s.count := by cases p <;> exact ⟨rfl, rfl⟩
  unfold State.answerRewind
  dsimp only
  rw [stopTimer_cursor, hring.1, hring.2]
  cases (s.port q).cursor.mark with
  | none => rfl
  | some m =>
    dsimp only
    split <;> exact congrArg (Answer.mk · _ _) (timerBlind_setCursor p q _ s)

theorem answerBlind_answerCursorSetup (mode : Byte) (ready margin : Half) :
    answerBlind p fun s => s.answerCursorSetup q mode ready margin := by
  intro s
  have hcapacity : (stopTimer p s).capacity = s.capacity := by cases p <;> rfl
  unfold State.answerCursorSetup
  dsimp only
  rw [stopTimer_cursor, hcapacity]
  cases CursorMode.ofByte mode with
  | none => rfl
  | some m => exact congrArg (Answer.mk · _ _) (timerBlind_setCursor p q _ s)

theorem answerBlind_answerFlush : answerBlind p State.answerFlush := by
  intro s
  unfold State.answerFlush
  rw [timerBlind_flushRing p s]
  cases p <;> rfl

theorem answerBlind_ringRequest {i : Instr} {f : State → Answer} (h : ringRequest i = some (q, f)) : answerBlind p f := by
  cases i <;> simp only [ringRequest, Option.some.injEq, Prod.mk.injEq, reduceCtorEq] at h
  all_goals obtain ⟨rfl, rfl⟩ := h
  · exact answerBlind_answerRead p _ _
  · exact answerBlind_answerMark p _
  · exact answerBlind_answerRewind p _
  · exact answerBlind_answerCursorSetup p _ _ _ _
  · exact answerBlind_answerFlush p

theorem timerBlind_onRequest {f : State → Answer} (hf : answerBlind p f) : timerBlind p fun s => s.onRequest q f := by
  intro s
  unfold State.onRequest
  dsimp only
  rw [stopTimer_framing]
  cases (s.port q).framing with
  | request left rx =>
    dsimp only
    rw [hf s]
    exact timerBlind_respond p q _ _ _
  | _ => rfl

theorem timerBlind_readPlaceBegin : timerBlind p fun s => s.readPlaceBegin q := by
  intro s
  unfold State.readPlaceBegin
  dsimp only
  rw [stopTimer_framing, stopTimer_cursor, stopTimer_readPlace]
  repeat' split
  all_goals first
    | rfl
    | exact timerBlind_comp (timerBlind_setCursor p q _) (timerBlind_setResp p q _ _) s

theorem timerBlind_readRecordComplete : timerBlind p fun s => s.readRecordComplete q := by
  intro s
  unfold State.readRecordComplete
  dsimp only
  rw [stopTimer_framing, stopTimer_cursor]
  repeat' split
  all_goals first
    | rfl
    | exact timerBlind_comp (timerBlind_setCursor p q _) (timerBlind_setResp p q _ _) s

theorem edgeEvent_stopTimer (edge : ClockEdge) (mosi : Bool) :
    (stopTimer p s).edgeEvent q edge mosi = (s.edgeEvent q edge mosi).map (stopTimer p) := by
  unfold State.edgeEvent
  rw [stopTimer_framing, stopTimer_settings]
  cases (s.port q).framing with
  | request left rx =>
    cases edge with
    | fall => rfl
    | rise =>
      dsimp only
      cases hc : ((rx.shift mosi).complete (s.port q).settings.order q).bind ringRequest with
      | none => rfl
      | some a =>
        obtain ⟨i, -, hi⟩ := Option.bind_eq_some_iff.mp hc
        have hblind := answerBlind_ringRequest p a.1 (f := a.2) hi
        exact congrArg some (timerBlind_comp
          (timerBlind_updPort p q (f := fun x => { x with framing := .request transactionTime (rx.shift mosi) }) fun _ => rfl)
          (timerBlind_onRequest p q hblind) s)
  | response left resp =>
    cases edge with
    | rise =>
      dsimp only
      split
      · exact congrArg some (timerBlind_readRecordComplete p q s)
      · rfl
    | fall =>
      dsimp only
      split
      · exact congrArg some (timerBlind_readPlaceBegin p q s)
      · rfl
  | _ => rfl

theorem ringEvent_stopTimer (i : Instr) :
    (stopTimer p s).ringEvent i = (s.ringEvent i).map fun a => (a.1, stopTimer p a.2) := by
  unfold State.ringEvent
  split
  · rw [edgeEvent_stopTimer, Option.map_map, Option.map_map]
    rfl
  · exact congrArg (fun t => some (_, t)) (timerBlind_readPlaceBegin p _ s)
  · exact congrArg (fun t => some (_, t)) (timerBlind_readRecordComplete p _ s)
  · cases hr : ringRequest i with
    | none => rfl
    | some a => exact congrArg (fun t => some (_, t)) (timerBlind_onRequest p a.1 (answerBlind_ringRequest p a.1 (f := a.2) hr) s)

theorem timerBlind_choices (n : Nat) : timerBlind p fun s => { s with choices := n } := by
  intro s
  cases p <;> rfl

theorem timerBlind_takeFirst (busy : List PortId) (l : List Instr) : timerBlind p (State.takeFirst busy l) := by
  intro s
  induction l generalizing s busy with
  | nil => rfl
  | cons i rest ih =>
    have hchoices (u : State) : (stopTimer p u).choices = u.choices := by cases p <;> rfl
    simp only [State.takeFirst, ringEvent_stopTimer, hchoices]
    cases s.ringEvent i with
    | none => rfl
    | some a =>
      obtain ⟨q, t⟩ := a
      simp only [Option.map_some, hchoices]
      split
      · rfl
      · split
        · exact (congrArg _ (timerBlind_choices p (t.choices + 1) t)).trans (ih (q :: busy) _)
        · exact timerBlind_choices p _ s

theorem timerBlind_takeTogether (busy : List PortId) : timerBlind p fun s => s.takeTogether busy := by
  intro s
  have hpending : (stopTimer p s).pending = s.pending := by cases p <;> rfl
  unfold State.takeTogether
  dsimp only
  rw [hpending]
  exact timerBlind_takeFirst p busy s.pending s

/-! ## The stop of frames and the start of the check -/

theorem timerBlind_leave (i : SlotId) (t : Track) (time : Time) : timerBlind p fun s => s.leave i t time := by
  intro s
  unfold State.leave
  split
  · exact timerBlind_comp (timerBlind_comp (timerBlind_append p time _) (timerBlind_raiseBoth p .prox))
      (timerBlind_setSlot p i .free) s
  · exact timerBlind_setSlot p i .free s

theorem timerBlind_closeSlot (i : SlotId) (time : Time) : timerBlind p fun s => s.closeSlot i time := by
  intro s
  unfold State.closeSlot
  dsimp only
  rw [stopTimer_slot]
  cases s.slot i with
  | free => rfl
  | tracking t => exact timerBlind_leave p i t time s

theorem timerBlind_toEngine (engine : Engine) : timerBlind p fun s => s.toEngine engine := by
  intro s
  have hraise := timerBlind_raiseBoth p .engine { s with engine := engine }
  unfold State.toEngine
  cases p <;> exact hraise

theorem timerBlind_appendBreak (cause : BreakCause) : timerBlind p fun s => s.append s.counter (.brk cause) := by
  intro s
  have hcounter : (stopTimer p s).counter = s.counter := by cases p <;> rfl
  dsimp only
  rw [hcounter]
  exact timerBlind_append p s.counter _ s

theorem timerBlind_closeFrames (start : Time) (cause : BreakCause) : timerBlind p fun s => s.closeFrames q start cause :=
  timerBlind_comp
    (timerBlind_comp (timerBlind_comp (timerBlind_closeSlot p .s0 start) (timerBlind_takeTogether p [q]))
      (timerBlind_comp (timerBlind_closeSlot p .s1 start) (timerBlind_takeTogether p [q])))
    (timerBlind_appendBreak p cause)

theorem timerBlind_stopFrames (r : Run) (cause : BreakCause) (engine : Engine) :
    timerBlind p fun s => s.stopFrames q r cause engine :=
  timerBlind_comp (timerBlind_closeFrames p q r.start cause) (timerBlind_toEngine p engine)

theorem timerBlind_startCheck : timerBlind p State.startCheck := by
  intro s
  have hread : (stopTimer p s).items = s.items ∧ (stopTimer p s).curves = s.curves ∧ (stopTimer p s).map = s.map
      ∧ (stopTimer p s).sensesArray = s.sensesArray ∧ derived (stopTimer p s) = derived s
      ∧ passedTo (stopTimer p s) = passedTo s := by
    cases p <;> exact ⟨rfl, rfl, rfl, rfl, rfl, rfl⟩
  obtain ⟨hitems, hcurves, hmap, hsenses, hderived, hpassed⟩ := hread
  have hchecked (e : Engine) (m : DefectMap) (r : Report) (failed : Bool) :
      checkedTo (stopTimer p s) e m r failed = stopTimer p (checkedTo s e m r failed) := by
    cases p <;> rfl
  by_cases hfound : configFindings s.items s.curves = []
  · have hfound' : configFindings (stopTimer p s).items (stopTimer p s).curves = [] := by rw [hitems, hcurves, hfound]
    by_cases hs : s.sensesArray = true
    · rw [startCheck_senses s hfound hs, startCheck_senses _ hfound' (hsenses.trans hs), hchecked]
    · have hs : s.sensesArray = false := Bool.eq_false_iff.mpr hs
      rw [startCheck_derives s hfound hs, startCheck_derives _ hfound' (hsenses.trans hs), hderived, hpassed, hmap, hchecked,
        hchecked]
      split <;> rfl
  · have hfound' : configFindings (stopTimer p s).items (stopTimer p s).curves ≠ [] := by rwa [hitems, hcurves]
    rw [startCheck_of_findings s hfound, startCheck_of_findings _ hfound', hitems, hcurves, hmap, hchecked]

/-! ## The claims of a port -/

/-- The state with port `q` out of both sets. -/
def unclaimed (q : PortId) (s : State) : State := { s with hold := s.hold.erase q, run := s.run.erase q }

theorem timerBlind_unclaimed : timerBlind p (unclaimed q) := by
  intro s
  cases p <;> rfl

/-- A withdrawal, by the state of the engine and what is left of the sets (R38). -/
theorem withdraw_eq (s : State) : s.withdraw q =
    if s.hold.has q || s.run.has q then
      match s.engine with
      | .halted => if s.hold.has q && (s.hold.erase q).isEmpty then (unclaimed q s).startCheck else unclaimed q s
      | .scanning r => if (s.run.erase q).isEmpty then (unclaimed q s).stopFrames q r .stopped .idle else unclaimed q s
      | .checking _ | .idle => unclaimed q s
    else s := rfl

theorem timerBlind_withdraw : timerBlind p fun s => s.withdraw q := by
  intro s
  have hread : (stopTimer p s).hold = s.hold ∧ (stopTimer p s).run = s.run ∧ (stopTimer p s).engine = s.engine := by
    cases p <;> exact ⟨rfl, rfl, rfl⟩
  obtain ⟨hhold, hrun, hengine⟩ := hread
  dsimp only
  rw [withdraw_eq, withdraw_eq, hhold, hrun, hengine, timerBlind_unclaimed p q]
  split
  · cases s.engine with
    | halted =>
      dsimp only
      rw [timerBlind_startCheck p]
      split <;> rfl
    | scanning r =>
      have hstop := timerBlind_stopFrames p q r .stopped .idle (unclaimed q s)
      dsimp only at hstop ⊢
      rw [hstop]
      split <;> rfl
    | _ => rfl
  · rfl

theorem updXfer_untimed (x : Port) (f : Xfer → Xfer) : (untimed x).updXfer f = untimed (x.updXfer f) := by
  obtain ⟨framing, -, -, -, -, -⟩ := x
  cases framing <;> rfl

theorem timerBlind_releaseEntry : timerBlind p (State.releaseEntry e) :=
  timerBlind_comp (f := fun s => s.setEntry e none)
    (g := fun s => s.forPorts fun q t => t.updPort q fun x => x.updXfer (Xfer.releaseEntry e)) (timerBlind_setEntry p e none)
    (timerBlind_forPorts p fun q => timerBlind_updPort p q fun x => updXfer_untimed x _)

theorem timerBlind_releaseIfOwned : timerBlind p (releaseIfOwned q e) := by
  intro s
  have howns : owns (stopTimer p s) q e = owns s q e := by rw [owns, stopTimer_entry, owns]
  unfold releaseIfOwned
  rw [howns, timerBlind_releaseEntry]
  split <;> rfl

theorem timerBlind_dropClaims : timerBlind p fun s => s.dropClaims q := by
  intro s
  have hreleased := timerBlind_comp (timerBlind_withdraw p q) (timerBlind_forEntries p fun e => timerBlind_releaseIfOwned p q e) s
  unfold State.dropClaims
  dsimp only at hreleased ⊢
  rw [releaseOwned_eq, releaseOwned_eq, hreleased]
  cases p <;> rfl

end Sys2Proof.KindsAndCurves
end

section
/-!
PROOFS. The expiry of a lapse timer (R29, R38, R145, R154, R155): what an engaged port loses (O18).
-/

namespace Sys2Proof.KindsAndCurves

open Sys2Proof.Machine

variable (s : State) (p : PortId)

/-- The four curves in order. -/
theorem curves_toList : s.curves.toList = (List.finRange 4).map fun c => s.curves[c] := by
  refine List.ext_getElem (by simp) fun j hj _ => ?_
  simp

theorem owner_iff (c : Curve) : c.owner = some p ↔ ∃ n ks, c = .loading n ks (some p) := by
  cases c <;> simp [Curve.owner]

/-- A port is engaged while it holds, runs, owns a capture or loads a curve (R155). -/
theorem engaged_iff : s.engaged p = true
    ↔ s.hold.has p = true ∨ s.run.has p = true ∨ (∃ e h, s.entry e = some h ∧ h.owner = p)
      ∨ ∃ (c : Fin 4) (n : Nat) (ks : List Knot), s.curves[c] = .loading n ks (some p) := by
  have hcaptures : (s.entries.toList.any fun e => e.any fun h => h.owner == p) = true
      ↔ ∃ e h, s.entry e = some h ∧ h.owner = p := by
    simp [entries_toList, Fin.exists_fin_succ, Option.any_eq_true]
  have hcurves : (s.curves.toList.any fun c => c.owner == some p) = true
      ↔ ∃ (c : Fin 4) (n : Nat) (ks : List Knot), s.curves[c] = .loading n ks (some p) := by
    simp only [curves_toList, List.any_map, List.any_eq_true, List.mem_finRange, true_and, Function.comp_apply, beq_iff_eq,
      owner_iff]
  rw [State.engaged, Bool.or_eq_true, Bool.or_eq_true, Bool.or_eq_true, hcaptures, hcurves, or_assoc, or_assoc]

/-- What the lapse leaves beside the claims it takes: the timer STOPPED, LAPSE on the port and PEER on the other (R155). -/
theorem lapse_conditions (v : State) :
    let t := ((stopTimer p v).raise p .lapse).raise p.other .peer
    t.port p = { v.port p with lapseTimer := none, latched := { (v.port p).latched with lapse := true } }
    ∧ t.port p.other = { v.port p.other with latched := { (v.port p.other).latched with peer := true } }
    ∧ t = { v with port0 := t.port0, port1 := t.port1 } := by
  cases p <;> exact ⟨rfl, rfl, rfl⟩

/-- Settles O18: the lapse takes its claims from the port with its timer STOPPED, as it would before. -/
theorem lapseTakesClaims : Obligations.LapseTakesClaims := by
  intro s p ht
  have hexec : exec (.lapseTimerExpiry p) s
      = .next (if s.engaged p then (stopTimer p s).lapse p else stopTimer p s) := by
    show Host.Outcome.next (s.lapseTimerExpiry p) = _
    rw [State.lapseTimerExpiry, if_pos ht]
    rfl
  refine ⟨engaged_iff s p, fun hfree => ?_, fun hengaged => ?_⟩
  · rw [hexec, hfree]
    rfl
  · rw [hexec, if_pos hengaged]
    have hdrop : (stopTimer p s).dropClaims p = stopTimer p (s.dropClaims p) := timerBlind_dropClaims p p s
    rw [State.lapse, hdrop]
    exact ⟨s.withdraw p, s.dropClaims p, _, withdraw_withdrawn s p, release_claimsReleased (s.withdraw p) p, rfl,
      lapse_conditions p (s.dropClaims p)⟩

end Sys2Proof.KindsAndCurves
end
